-- ==== Sys2Proof/Word.lean ====
section
/-! DEFINITION. The two widths of the core: a byte and a word (00_scope.md R6). Registers, cells and operands are
bit vectors because the hardware adds, shifts and masks them. -/

namespace Sys2Proof

/-- An unsigned 8-bit value: a register A, X, Y, SP or a memory cell (00_scope.md R6). -/
abbrev Byte := BitVec 8

/-- An unsigned 16-bit value: the program counter or an address (00_scope.md R6). -/
abbrev Word := BitVec 16

end Sys2Proof
end

