-- ==== Sys2Proof/Config.lean ====
section
/-! DEFINITION. The configuration of the core: the 79 instruction names, the parameters that 00_scope.md R5 leaves
open, and the constants that it fixes. Nothing here is architectural state (10_state.md R31(b)). -/

namespace Sys2Proof

/-- The instruction names: the 19 of 30_encoding.md R84, then the 60 of 47_alu_extension.md R280. The domain of the
parameter `OPC`. -/
inductive Opcode where
  | ldaIm | ldaZp | ldaZpx | ldaAb | ldaAbx | ldaAby | ldaIzx | ldaIzy
  | staZp | staZpx | staAb | staAbx | staAby | staIzx | staIzy
  | jmpAb | jmpIn
  | jsrAb
  | rts
  | adcIm | adcZp | adcZpx | adcAb | adcAbx | adcAby | adcIzx | adcIzy
  | sbcIm | sbcZp | sbcZpx | sbcAb | sbcAbx | sbcAby | sbcIzx | sbcIzy
  | andIm | andZp | andZpx | andAb | andAbx | andAby | andIzx | andIzy
  | oraIm | oraZp | oraZpx | oraAb | oraAbx | oraAby | oraIzx | oraIzy
  | eorIm | eorZp | eorZpx | eorAb | eorAbx | eorAby | eorIzx | eorIzy
  | aslAcc | aslZp | aslZpx | aslAb | aslAbx
  | lsrAcc | lsrZp | lsrZpx | lsrAb | lsrAbx
  | rolAcc | rolZp | rolZpx | rolAb | rolAbx
  | rorAcc | rorZp | rorZpx | rorAb | rorAbx
deriving DecidableEq, Repr

/-- The instructions that are decoded only when `EXT_ALU` is true (47_alu_extension.md R200). -/
def Opcode.isExtension : Opcode → Bool
  | .ldaIm | .ldaZp | .ldaZpx | .ldaAb | .ldaAbx | .ldaAby | .ldaIzx | .ldaIzy => false
  | .staZp | .staZpx | .staAb | .staAbx | .staAby | .staIzx | .staIzy => false
  | .jmpAb | .jmpIn => false
  | .jsrAb => false
  | .rts => false
  | .adcIm | .adcZp | .adcZpx | .adcAb | .adcAbx | .adcAby | .adcIzx | .adcIzy => true
  | .sbcIm | .sbcZp | .sbcZpx | .sbcAb | .sbcAbx | .sbcAby | .sbcIzx | .sbcIzy => true
  | .andIm | .andZp | .andZpx | .andAb | .andAbx | .andAby | .andIzx | .andIzy => true
  | .oraIm | .oraZp | .oraZpx | .oraAb | .oraAbx | .oraAby | .oraIzx | .oraIzy => true
  | .eorIm | .eorZp | .eorZpx | .eorAb | .eorAbx | .eorAby | .eorIzx | .eorIzy => true
  | .aslAcc | .aslZp | .aslZpx | .aslAb | .aslAbx => true
  | .lsrAcc | .lsrZp | .lsrZpx | .lsrAb | .lsrAbx => true
  | .rolAcc | .rolZp | .rolZpx | .rolAb | .rolAbx => true
  | .rorAcc | .rorZp | .rorZpx | .rorAb | .rorAbx => true

/-- The two packed layouts of the status byte that doc00 names (10_state.md R25): V and N in bits 5 and 6, or in bits
6 and 7. Only the host's packed view reads it. -/
inductive StatusLayout where
  | v5n6 | v6n7
deriving DecidableEq, Repr

/-- The open parameters of 00_scope.md R5 as plain data. `extAlu` is `EXT_ALU`; `opc` is `OPC`, written as the list of
names whose byte differs from the default table of Decode.lean (the first entry of a name counts), so that every map
from names to bytes can be written; `statusLayout` is `STATUS_LAYOUT`. The defaults are the spec's. -/
structure Config where
  extAlu       : Bool := false
  opc          : List (Opcode × Byte) := []
  statusLayout : StatusLayout := .v5n6
deriving DecidableEq, Repr

/-- `RESET_PC` (00_scope.md R5, 10_state.md R33). -/
def Config.resetPC : Word := 0xFFFC

/-- `RESET_SP` (00_scope.md R5, 10_state.md R33). -/
def Config.resetSP : Byte := 0x00

/-- `MEMSIZE`, the number of memory cells (00_scope.md R5, 20_memory.md R50). -/
def Config.memSize : Nat := 65536

/-- What a cell that nothing has written holds: memory is "zero-initialized on creation" (10_state.md R30). -/
def Config.unlistedByte : Byte := 0x00

end Sys2Proof
end

