-- ==== Sys2Proof/Syntax.lean ====
section
/-! DEFINITION. The instructions as syntax: one constructor per row of the opcode table, with the operand that the
row's format carries (30_encoding.md R80): none (F1), a byte (F2), a word (F3). -/

namespace Sys2Proof

/-- An instruction of the core: name and operand (30_encoding.md R84, R87; 47_alu_extension.md R280). -/
inductive Instr where
  /-- LDA_IM, `LDA #$nn`, R140. -/
  | ldaIm (b : Byte)
  /-- LDA_ZP, `LDA $nn`, R141. -/
  | ldaZp (b : Byte)
  /-- LDA_ZPX, `LDA $nn,X`, R142. -/
  | ldaZpx (b : Byte)
  /-- LDA_AB, `LDA $hhll`, R143. -/
  | ldaAb (w : Word)
  /-- LDA_ABX, `LDA $hhll,X`, R144. -/
  | ldaAbx (w : Word)
  /-- LDA_ABY, `LDA $hhll,Y`, R145. -/
  | ldaAby (w : Word)
  /-- LDA_IZX, `LDA ($nn,X)`, R146. -/
  | ldaIzx (b : Byte)
  /-- LDA_IZY, `LDA ($nn),Y`, R147. -/
  | ldaIzy (b : Byte)
  /-- STA_ZP, `STA $nn`, R150. -/
  | staZp (b : Byte)
  /-- STA_ZPX, `STA $nn,X`, R151. -/
  | staZpx (b : Byte)
  /-- STA_AB, `STA $hhll`, R152. -/
  | staAb (w : Word)
  /-- STA_ABX, `STA $hhll,X`, R153. -/
  | staAbx (w : Word)
  /-- STA_ABY, `STA $hhll,Y`, R154. -/
  | staAby (w : Word)
  /-- STA_IZX, `STA ($nn,X)`, R155. -/
  | staIzx (b : Byte)
  /-- STA_IZY, `STA ($nn),Y`, R156. -/
  | staIzy (b : Byte)
  /-- JMP_AB, `JMP $hhll`, R160. -/
  | jmpAb (w : Word)
  /-- JMP_IN, `JMP ($hhll)`, R161. -/
  | jmpIn (w : Word)
  /-- JSR_AB, `JSR $hhll`, R162. -/
  | jsrAb (w : Word)
  /-- RTS, `RTS`, R163. -/
  | rts
  /-- ADC_IM, `ADC #$nn`, R220. -/
  | adcIm (b : Byte)
  /-- ADC_ZP, `ADC $nn`, R221. -/
  | adcZp (b : Byte)
  /-- ADC_ZPX, `ADC $nn,X`, R222. -/
  | adcZpx (b : Byte)
  /-- ADC_AB, `ADC $hhll`, R223. -/
  | adcAb (w : Word)
  /-- ADC_ABX, `ADC $hhll,X`, R224. -/
  | adcAbx (w : Word)
  /-- ADC_ABY, `ADC $hhll,Y`, R225. -/
  | adcAby (w : Word)
  /-- ADC_IZX, `ADC ($nn,X)`, R226. -/
  | adcIzx (b : Byte)
  /-- ADC_IZY, `ADC ($nn),Y`, R227. -/
  | adcIzy (b : Byte)
  /-- SBC_IM, `SBC #$nn`, R228. -/
  | sbcIm (b : Byte)
  /-- SBC_ZP, `SBC $nn`, R229. -/
  | sbcZp (b : Byte)
  /-- SBC_ZPX, `SBC $nn,X`, R230. -/
  | sbcZpx (b : Byte)
  /-- SBC_AB, `SBC $hhll`, R231. -/
  | sbcAb (w : Word)
  /-- SBC_ABX, `SBC $hhll,X`, R232. -/
  | sbcAbx (w : Word)
  /-- SBC_ABY, `SBC $hhll,Y`, R233. -/
  | sbcAby (w : Word)
  /-- SBC_IZX, `SBC ($nn,X)`, R234. -/
  | sbcIzx (b : Byte)
  /-- SBC_IZY, `SBC ($nn),Y`, R235. -/
  | sbcIzy (b : Byte)
  /-- AND_IM, `AND #$nn`, R236. -/
  | andIm (b : Byte)
  /-- AND_ZP, `AND $nn`, R237. -/
  | andZp (b : Byte)
  /-- AND_ZPX, `AND $nn,X`, R238. -/
  | andZpx (b : Byte)
  /-- AND_AB, `AND $hhll`, R239. -/
  | andAb (w : Word)
  /-- AND_ABX, `AND $hhll,X`, R240. -/
  | andAbx (w : Word)
  /-- AND_ABY, `AND $hhll,Y`, R241. -/
  | andAby (w : Word)
  /-- AND_IZX, `AND ($nn,X)`, R242. -/
  | andIzx (b : Byte)
  /-- AND_IZY, `AND ($nn),Y`, R243. -/
  | andIzy (b : Byte)
  /-- ORA_IM, `ORA #$nn`, R244. -/
  | oraIm (b : Byte)
  /-- ORA_ZP, `ORA $nn`, R245. -/
  | oraZp (b : Byte)
  /-- ORA_ZPX, `ORA $nn,X`, R246. -/
  | oraZpx (b : Byte)
  /-- ORA_AB, `ORA $hhll`, R247. -/
  | oraAb (w : Word)
  /-- ORA_ABX, `ORA $hhll,X`, R248. -/
  | oraAbx (w : Word)
  /-- ORA_ABY, `ORA $hhll,Y`, R249. -/
  | oraAby (w : Word)
  /-- ORA_IZX, `ORA ($nn,X)`, R250. -/
  | oraIzx (b : Byte)
  /-- ORA_IZY, `ORA ($nn),Y`, R251. -/
  | oraIzy (b : Byte)
  /-- EOR_IM, `EOR #$nn`, R252. -/
  | eorIm (b : Byte)
  /-- EOR_ZP, `EOR $nn`, R253. -/
  | eorZp (b : Byte)
  /-- EOR_ZPX, `EOR $nn,X`, R254. -/
  | eorZpx (b : Byte)
  /-- EOR_AB, `EOR $hhll`, R255. -/
  | eorAb (w : Word)
  /-- EOR_ABX, `EOR $hhll,X`, R256. -/
  | eorAbx (w : Word)
  /-- EOR_ABY, `EOR $hhll,Y`, R257. -/
  | eorAby (w : Word)
  /-- EOR_IZX, `EOR ($nn,X)`, R258. -/
  | eorIzx (b : Byte)
  /-- EOR_IZY, `EOR ($nn),Y`, R259. -/
  | eorIzy (b : Byte)
  /-- ASL_ACC, `ASL A`, R260. -/
  | aslAcc
  /-- ASL_ZP, `ASL $nn`, R261. -/
  | aslZp (b : Byte)
  /-- ASL_ZPX, `ASL $nn,X`, R262. -/
  | aslZpx (b : Byte)
  /-- ASL_AB, `ASL $hhll`, R263. -/
  | aslAb (w : Word)
  /-- ASL_ABX, `ASL $hhll,X`, R264. -/
  | aslAbx (w : Word)
  /-- LSR_ACC, `LSR A`, R265. -/
  | lsrAcc
  /-- LSR_ZP, `LSR $nn`, R266. -/
  | lsrZp (b : Byte)
  /-- LSR_ZPX, `LSR $nn,X`, R267. -/
  | lsrZpx (b : Byte)
  /-- LSR_AB, `LSR $hhll`, R268. -/
  | lsrAb (w : Word)
  /-- LSR_ABX, `LSR $hhll,X`, R269. -/
  | lsrAbx (w : Word)
  /-- ROL_ACC, `ROL A`, R270. -/
  | rolAcc
  /-- ROL_ZP, `ROL $nn`, R271. -/
  | rolZp (b : Byte)
  /-- ROL_ZPX, `ROL $nn,X`, R272. -/
  | rolZpx (b : Byte)
  /-- ROL_AB, `ROL $hhll`, R273. -/
  | rolAb (w : Word)
  /-- ROL_ABX, `ROL $hhll,X`, R274. -/
  | rolAbx (w : Word)
  /-- ROR_ACC, `ROR A`, R275. -/
  | rorAcc
  /-- ROR_ZP, `ROR $nn`, R276. -/
  | rorZp (b : Byte)
  /-- ROR_ZPX, `ROR $nn,X`, R277. -/
  | rorZpx (b : Byte)
  /-- ROR_AB, `ROR $hhll`, R278. -/
  | rorAb (w : Word)
  /-- ROR_ABX, `ROR $hhll,X`, R279. -/
  | rorAbx (w : Word)
deriving DecidableEq, Repr

/-- The name of an instruction, its operand forgotten. -/
def Instr.opcode : Instr → Opcode
  | .ldaIm _ => .ldaIm
  | .ldaZp _ => .ldaZp
  | .ldaZpx _ => .ldaZpx
  | .ldaAb _ => .ldaAb
  | .ldaAbx _ => .ldaAbx
  | .ldaAby _ => .ldaAby
  | .ldaIzx _ => .ldaIzx
  | .ldaIzy _ => .ldaIzy
  | .staZp _ => .staZp
  | .staZpx _ => .staZpx
  | .staAb _ => .staAb
  | .staAbx _ => .staAbx
  | .staAby _ => .staAby
  | .staIzx _ => .staIzx
  | .staIzy _ => .staIzy
  | .jmpAb _ => .jmpAb
  | .jmpIn _ => .jmpIn
  | .jsrAb _ => .jsrAb
  | .rts => .rts
  | .adcIm _ => .adcIm
  | .adcZp _ => .adcZp
  | .adcZpx _ => .adcZpx
  | .adcAb _ => .adcAb
  | .adcAbx _ => .adcAbx
  | .adcAby _ => .adcAby
  | .adcIzx _ => .adcIzx
  | .adcIzy _ => .adcIzy
  | .sbcIm _ => .sbcIm
  | .sbcZp _ => .sbcZp
  | .sbcZpx _ => .sbcZpx
  | .sbcAb _ => .sbcAb
  | .sbcAbx _ => .sbcAbx
  | .sbcAby _ => .sbcAby
  | .sbcIzx _ => .sbcIzx
  | .sbcIzy _ => .sbcIzy
  | .andIm _ => .andIm
  | .andZp _ => .andZp
  | .andZpx _ => .andZpx
  | .andAb _ => .andAb
  | .andAbx _ => .andAbx
  | .andAby _ => .andAby
  | .andIzx _ => .andIzx
  | .andIzy _ => .andIzy
  | .oraIm _ => .oraIm
  | .oraZp _ => .oraZp
  | .oraZpx _ => .oraZpx
  | .oraAb _ => .oraAb
  | .oraAbx _ => .oraAbx
  | .oraAby _ => .oraAby
  | .oraIzx _ => .oraIzx
  | .oraIzy _ => .oraIzy
  | .eorIm _ => .eorIm
  | .eorZp _ => .eorZp
  | .eorZpx _ => .eorZpx
  | .eorAb _ => .eorAb
  | .eorAbx _ => .eorAbx
  | .eorAby _ => .eorAby
  | .eorIzx _ => .eorIzx
  | .eorIzy _ => .eorIzy
  | .aslAcc => .aslAcc
  | .aslZp _ => .aslZp
  | .aslZpx _ => .aslZpx
  | .aslAb _ => .aslAb
  | .aslAbx _ => .aslAbx
  | .lsrAcc => .lsrAcc
  | .lsrZp _ => .lsrZp
  | .lsrZpx _ => .lsrZpx
  | .lsrAb _ => .lsrAb
  | .lsrAbx _ => .lsrAbx
  | .rolAcc => .rolAcc
  | .rolZp _ => .rolZp
  | .rolZpx _ => .rolZpx
  | .rolAb _ => .rolAb
  | .rolAbx _ => .rolAbx
  | .rorAcc => .rorAcc
  | .rorZp _ => .rorZp
  | .rorZpx _ => .rorZpx
  | .rorAb _ => .rorAb
  | .rorAbx _ => .rorAbx

end Sys2Proof
end

