-- ==== Sys2Proof/WellFormed.lean ====
section
/-! DEFINITION. What a well-formed instruction is. Operand widths are in the types, so the one check left is the gate
of the ALU extension (47_alu_extension.md R200). -/

namespace Sys2Proof

/-- The names that the opcode table of a configuration holds: the 19, and the 60 of the extension when `EXT_ALU` is
true (47_alu_extension.md R200, 30_encoding.md R86). -/
def Config.enables (c : Config) (n : Opcode) : Bool := !n.isExtension || c.extAlu

/-- An instruction is well-formed under a configuration when the configuration's opcode table holds its name. -/
def Instr.wf (c : Config) (i : Instr) : Bool := c.enables i.opcode

end Sys2Proof
end

