-- ==== Sys2Proof/Decode.lean ====
section
/-! DEFINITION. The decoder, total on any bytes and rejecting by name, and after it the encoder (30_encoding.md). -/

namespace Sys2Proof

/-! ### Bytes and words -/

/-- `{h, l}`, the word `h * 256 + l` (00_scope.md R6). -/
def mkWord (h l : Byte) : Word := BitVec.ofNat 16 (h.toNat * 256 + l.toNat)

/-- `lo(w) = w[7:0]` (00_scope.md R6). -/
def lo (w : Word) : Byte := BitVec.ofNat 8 w.toNat

/-- `hi(w) = w[15:8]`, the page of `w` (00_scope.md R6). -/
def hi (w : Word) : Byte := BitVec.ofNat 8 (w.toNat / 256)

/-! ### The opcode table -/

/-- The default opcode bytes of `OPC` (30_encoding.md R84, 47_alu_extension.md R280). PRESUMED: the spec takes them
from general knowledge of the MOS 6502 (decision D4), log 3; unsafe where a claim uses a value. -/
def Opcode.defaultByte : Opcode → Byte
  | .ldaIm => 0xA9
  | .ldaZp => 0xA5
  | .ldaZpx => 0xB5
  | .ldaAb => 0xAD
  | .ldaAbx => 0xBD
  | .ldaAby => 0xB9
  | .ldaIzx => 0xA1
  | .ldaIzy => 0xB1
  | .staZp => 0x85
  | .staZpx => 0x95
  | .staAb => 0x8D
  | .staAbx => 0x9D
  | .staAby => 0x99
  | .staIzx => 0x81
  | .staIzy => 0x91
  | .jmpAb => 0x4C
  | .jmpIn => 0x6C
  | .jsrAb => 0x20
  | .rts => 0x60
  | .adcIm => 0x69
  | .adcZp => 0x65
  | .adcZpx => 0x75
  | .adcAb => 0x6D
  | .adcAbx => 0x7D
  | .adcAby => 0x79
  | .adcIzx => 0x61
  | .adcIzy => 0x71
  | .sbcIm => 0xE9
  | .sbcZp => 0xE5
  | .sbcZpx => 0xF5
  | .sbcAb => 0xED
  | .sbcAbx => 0xFD
  | .sbcAby => 0xF9
  | .sbcIzx => 0xE1
  | .sbcIzy => 0xF1
  | .andIm => 0x29
  | .andZp => 0x25
  | .andZpx => 0x35
  | .andAb => 0x2D
  | .andAbx => 0x3D
  | .andAby => 0x39
  | .andIzx => 0x21
  | .andIzy => 0x31
  | .oraIm => 0x09
  | .oraZp => 0x05
  | .oraZpx => 0x15
  | .oraAb => 0x0D
  | .oraAbx => 0x1D
  | .oraAby => 0x19
  | .oraIzx => 0x01
  | .oraIzy => 0x11
  | .eorIm => 0x49
  | .eorZp => 0x45
  | .eorZpx => 0x55
  | .eorAb => 0x4D
  | .eorAbx => 0x5D
  | .eorAby => 0x59
  | .eorIzx => 0x41
  | .eorIzy => 0x51
  | .aslAcc => 0x0A
  | .aslZp => 0x06
  | .aslZpx => 0x16
  | .aslAb => 0x0E
  | .aslAbx => 0x1E
  | .lsrAcc => 0x4A
  | .lsrZp => 0x46
  | .lsrZpx => 0x56
  | .lsrAb => 0x4E
  | .lsrAbx => 0x5E
  | .rolAcc => 0x2A
  | .rolZp => 0x26
  | .rolZpx => 0x36
  | .rolAb => 0x2E
  | .rolAbx => 0x3E
  | .rorAcc => 0x6A
  | .rorZp => 0x66
  | .rorZpx => 0x76
  | .rorAb => 0x6E
  | .rorAbx => 0x7E

/-- The parameter `OPC` of a configuration: the opcode byte of a name (00_scope.md R5). -/
def Config.opcodeByte (c : Config) (n : Opcode) : Byte := (c.opc.lookup n).getD n.defaultByte

/-- The 19 rows of 30_encoding.md R84. -/
def Opcode.normative : List Opcode :=
  [.ldaIm, .ldaZp, .ldaZpx, .ldaAb, .ldaAbx, .ldaAby, .ldaIzx, .ldaIzy, .staZp, .staZpx, .staAb, .staAbx, .staAby, .staIzx, .staIzy, .jmpAb, .jmpIn, .jsrAb, .rts]

/-- The rows of ADC in 47_alu_extension.md R280. -/
def Opcode.adcRows : List Opcode :=
  [.adcIm, .adcZp, .adcZpx, .adcAb, .adcAbx, .adcAby, .adcIzx, .adcIzy]

/-- The rows of SBC in 47_alu_extension.md R280. -/
def Opcode.sbcRows : List Opcode :=
  [.sbcIm, .sbcZp, .sbcZpx, .sbcAb, .sbcAbx, .sbcAby, .sbcIzx, .sbcIzy]

/-- The rows of AND in 47_alu_extension.md R280. -/
def Opcode.andRows : List Opcode :=
  [.andIm, .andZp, .andZpx, .andAb, .andAbx, .andAby, .andIzx, .andIzy]

/-- The rows of ORA in 47_alu_extension.md R280. -/
def Opcode.oraRows : List Opcode :=
  [.oraIm, .oraZp, .oraZpx, .oraAb, .oraAbx, .oraAby, .oraIzx, .oraIzy]

/-- The rows of EOR in 47_alu_extension.md R280. -/
def Opcode.eorRows : List Opcode :=
  [.eorIm, .eorZp, .eorZpx, .eorAb, .eorAbx, .eorAby, .eorIzx, .eorIzy]

/-- The rows of ASL in 47_alu_extension.md R280. -/
def Opcode.aslRows : List Opcode :=
  [.aslAcc, .aslZp, .aslZpx, .aslAb, .aslAbx]

/-- The rows of LSR in 47_alu_extension.md R280. -/
def Opcode.lsrRows : List Opcode :=
  [.lsrAcc, .lsrZp, .lsrZpx, .lsrAb, .lsrAbx]

/-- The rows of ROL in 47_alu_extension.md R280. -/
def Opcode.rolRows : List Opcode :=
  [.rolAcc, .rolZp, .rolZpx, .rolAb, .rolAbx]

/-- The rows of ROR in 47_alu_extension.md R280. -/
def Opcode.rorRows : List Opcode :=
  [.rorAcc, .rorZp, .rorZpx, .rorAb, .rorAbx]

/-- Every row of the opcode table, the 60 of the extension included. -/
def Opcode.all : List Opcode :=
  Opcode.normative ++ Opcode.adcRows ++ Opcode.sbcRows ++ Opcode.andRows ++ Opcode.oraRows ++ Opcode.eorRows ++ Opcode.aslRows ++ Opcode.lsrRows ++ Opcode.rolRows ++ Opcode.rorRows

/-- The rows of the opcode table under a configuration (47_alu_extension.md R200). -/
def Config.table (c : Config) : List Opcode := Opcode.all.filter c.enables

/-- `OPC` is an injective map on the names that the table holds (00_scope.md R5, 30_encoding.md R84). -/
def Config.wf (c : Config) : Bool := decide (c.table.map c.opcodeByte).Nodup

/-- `Decode`, an exact match of the whole opcode byte (30_encoding.md R84, R101): the row whose byte it is, none for an
unlisted byte (R86). -/
def Config.lookup (c : Config) (op : Byte) : Option Opcode :=
  Opcode.all.find? fun n => c.enables n && c.opcodeByte n == op

/-! ### Operands -/

/-- The three formats (30_encoding.md R80). -/
inductive Format where
  | f1 | f2 | f3
deriving DecidableEq, Repr

/-- The format column of the opcode table (30_encoding.md R84, 47_alu_extension.md R280). -/
def Opcode.format : Opcode → Format
  | .rts => .f1
  | .aslAcc => .f1
  | .lsrAcc => .f1
  | .rolAcc => .f1
  | .rorAcc => .f1
  | .ldaIm | .ldaZp | .ldaZpx | .ldaIzx | .ldaIzy => .f2
  | .staZp | .staZpx | .staIzx | .staIzy => .f2
  | .adcIm | .adcZp | .adcZpx | .adcIzx | .adcIzy => .f2
  | .sbcIm | .sbcZp | .sbcZpx | .sbcIzx | .sbcIzy => .f2
  | .andIm | .andZp | .andZpx | .andIzx | .andIzy => .f2
  | .oraIm | .oraZp | .oraZpx | .oraIzx | .oraIzy => .f2
  | .eorIm | .eorZp | .eorZpx | .eorIzx | .eorIzy => .f2
  | .aslZp | .aslZpx => .f2
  | .lsrZp | .lsrZpx => .f2
  | .rolZp | .rolZpx => .f2
  | .rorZp | .rorZpx => .f2
  | .ldaAb | .ldaAbx | .ldaAby => .f3
  | .staAb | .staAbx | .staAby => .f3
  | .jmpAb | .jmpIn => .f3
  | .jsrAb => .f3
  | .adcAb | .adcAbx | .adcAby => .f3
  | .sbcAb | .sbcAbx | .sbcAby => .f3
  | .andAb | .andAbx | .andAby => .f3
  | .oraAb | .oraAbx | .oraAby => .f3
  | .eorAb | .eorAbx | .eorAby => .f3
  | .aslAb | .aslAbx => .f3
  | .lsrAb | .lsrAbx => .f3
  | .rolAb | .rolAbx => .f3
  | .rorAb | .rorAbx => .f3

/-- The length in bytes of an instruction, decided by its name alone (30_encoding.md R81). -/
def Opcode.length (n : Opcode) : Nat :=
  match n.format with
  | .f1 => 1
  | .f2 => 2
  | .f3 => 3

/-- The length in bytes of an instruction (30_encoding.md R81). -/
def Instr.length (i : Instr) : Nat := i.opcode.length

/-- The instruction of a name with the one-byte operand `b` (30_encoding.md R82) or the two-byte operand `w` (R83),
whichever its format takes. -/
def Opcode.instr (n : Opcode) (b : Byte) (w : Word) : Instr :=
  match n with
  | .ldaIm => .ldaIm b
  | .ldaZp => .ldaZp b
  | .ldaZpx => .ldaZpx b
  | .ldaAb => .ldaAb w
  | .ldaAbx => .ldaAbx w
  | .ldaAby => .ldaAby w
  | .ldaIzx => .ldaIzx b
  | .ldaIzy => .ldaIzy b
  | .staZp => .staZp b
  | .staZpx => .staZpx b
  | .staAb => .staAb w
  | .staAbx => .staAbx w
  | .staAby => .staAby w
  | .staIzx => .staIzx b
  | .staIzy => .staIzy b
  | .jmpAb => .jmpAb w
  | .jmpIn => .jmpIn w
  | .jsrAb => .jsrAb w
  | .rts => .rts
  | .adcIm => .adcIm b
  | .adcZp => .adcZp b
  | .adcZpx => .adcZpx b
  | .adcAb => .adcAb w
  | .adcAbx => .adcAbx w
  | .adcAby => .adcAby w
  | .adcIzx => .adcIzx b
  | .adcIzy => .adcIzy b
  | .sbcIm => .sbcIm b
  | .sbcZp => .sbcZp b
  | .sbcZpx => .sbcZpx b
  | .sbcAb => .sbcAb w
  | .sbcAbx => .sbcAbx w
  | .sbcAby => .sbcAby w
  | .sbcIzx => .sbcIzx b
  | .sbcIzy => .sbcIzy b
  | .andIm => .andIm b
  | .andZp => .andZp b
  | .andZpx => .andZpx b
  | .andAb => .andAb w
  | .andAbx => .andAbx w
  | .andAby => .andAby w
  | .andIzx => .andIzx b
  | .andIzy => .andIzy b
  | .oraIm => .oraIm b
  | .oraZp => .oraZp b
  | .oraZpx => .oraZpx b
  | .oraAb => .oraAb w
  | .oraAbx => .oraAbx w
  | .oraAby => .oraAby w
  | .oraIzx => .oraIzx b
  | .oraIzy => .oraIzy b
  | .eorIm => .eorIm b
  | .eorZp => .eorZp b
  | .eorZpx => .eorZpx b
  | .eorAb => .eorAb w
  | .eorAbx => .eorAbx w
  | .eorAby => .eorAby w
  | .eorIzx => .eorIzx b
  | .eorIzy => .eorIzy b
  | .aslAcc => .aslAcc
  | .aslZp => .aslZp b
  | .aslZpx => .aslZpx b
  | .aslAb => .aslAb w
  | .aslAbx => .aslAbx w
  | .lsrAcc => .lsrAcc
  | .lsrZp => .lsrZp b
  | .lsrZpx => .lsrZpx b
  | .lsrAb => .lsrAb w
  | .lsrAbx => .lsrAbx w
  | .rolAcc => .rolAcc
  | .rolZp => .rolZp b
  | .rolZpx => .rolZpx b
  | .rolAb => .rolAb w
  | .rolAbx => .rolAbx w
  | .rorAcc => .rorAcc
  | .rorZp => .rorZp b
  | .rorZpx => .rorZpx b
  | .rorAb => .rorAb w
  | .rorAbx => .rorAbx w

/-- Why bytes are no instruction. `unrecognised`: the byte is not in the opcode table (30_encoding.md R86; the machine
takes it as the decode failure). `truncated` and `empty`: the list given to the decoder ends early; memory never does. -/
inductive Reject where
  | unrecognised (op : Byte)
  | truncated (op : Byte)
  | empty
deriving DecidableEq, Repr

/-- What the decoder answers: an instruction and the bytes after it, or a rejection by name. -/
inductive Decoded where
  | instr (i : Instr) (rest : List Byte)
  | reject (r : Reject)
deriving DecidableEq, Repr

/-- Operand assembly after the opcode byte `op` of the row `n` (30_encoding.md R80 to R83). -/
def decodeOperand (op : Byte) (n : Opcode) (bytes : List Byte) : Decoded :=
  match n.format, bytes with
  | .f1, rest            => .instr (n.instr 0 0) rest
  | .f2, b :: rest       => .instr (n.instr b 0) rest
  | .f3, l :: h :: rest  => .instr (n.instr 0 (mkWord h l)) rest
  | .f2, []              => .reject (.truncated op)
  | .f3, []              => .reject (.truncated op)
  | .f3, [_]             => .reject (.truncated op)

/-- The decoder (30_encoding.md R81): the opcode byte is looked up, then the operand of its format is taken. -/
def decode (c : Config) : List Byte → Decoded
  | []          => .reject .empty
  | op :: bytes =>
    match c.lookup op with
    | some n => decodeOperand op n bytes
    | none   => .reject (.unrecognised op)

/-! ### The encoder -/

/-- The operand bytes of an instruction, low byte first (30_encoding.md R80, R83). -/
def Instr.operandBytes : Instr → List Byte
  | .ldaIm b => [b]
  | .ldaZp b => [b]
  | .ldaZpx b => [b]
  | .ldaAb w => [lo w, hi w]
  | .ldaAbx w => [lo w, hi w]
  | .ldaAby w => [lo w, hi w]
  | .ldaIzx b => [b]
  | .ldaIzy b => [b]
  | .staZp b => [b]
  | .staZpx b => [b]
  | .staAb w => [lo w, hi w]
  | .staAbx w => [lo w, hi w]
  | .staAby w => [lo w, hi w]
  | .staIzx b => [b]
  | .staIzy b => [b]
  | .jmpAb w => [lo w, hi w]
  | .jmpIn w => [lo w, hi w]
  | .jsrAb w => [lo w, hi w]
  | .rts => []
  | .adcIm b => [b]
  | .adcZp b => [b]
  | .adcZpx b => [b]
  | .adcAb w => [lo w, hi w]
  | .adcAbx w => [lo w, hi w]
  | .adcAby w => [lo w, hi w]
  | .adcIzx b => [b]
  | .adcIzy b => [b]
  | .sbcIm b => [b]
  | .sbcZp b => [b]
  | .sbcZpx b => [b]
  | .sbcAb w => [lo w, hi w]
  | .sbcAbx w => [lo w, hi w]
  | .sbcAby w => [lo w, hi w]
  | .sbcIzx b => [b]
  | .sbcIzy b => [b]
  | .andIm b => [b]
  | .andZp b => [b]
  | .andZpx b => [b]
  | .andAb w => [lo w, hi w]
  | .andAbx w => [lo w, hi w]
  | .andAby w => [lo w, hi w]
  | .andIzx b => [b]
  | .andIzy b => [b]
  | .oraIm b => [b]
  | .oraZp b => [b]
  | .oraZpx b => [b]
  | .oraAb w => [lo w, hi w]
  | .oraAbx w => [lo w, hi w]
  | .oraAby w => [lo w, hi w]
  | .oraIzx b => [b]
  | .oraIzy b => [b]
  | .eorIm b => [b]
  | .eorZp b => [b]
  | .eorZpx b => [b]
  | .eorAb w => [lo w, hi w]
  | .eorAbx w => [lo w, hi w]
  | .eorAby w => [lo w, hi w]
  | .eorIzx b => [b]
  | .eorIzy b => [b]
  | .aslAcc => []
  | .aslZp b => [b]
  | .aslZpx b => [b]
  | .aslAb w => [lo w, hi w]
  | .aslAbx w => [lo w, hi w]
  | .lsrAcc => []
  | .lsrZp b => [b]
  | .lsrZpx b => [b]
  | .lsrAb w => [lo w, hi w]
  | .lsrAbx w => [lo w, hi w]
  | .rolAcc => []
  | .rolZp b => [b]
  | .rolZpx b => [b]
  | .rolAb w => [lo w, hi w]
  | .rolAbx w => [lo w, hi w]
  | .rorAcc => []
  | .rorZp b => [b]
  | .rorZpx b => [b]
  | .rorAb w => [lo w, hi w]
  | .rorAbx w => [lo w, hi w]

/-- The bytes of an instruction under a configuration (30_encoding.md R80, R84). -/
def encode (c : Config) (i : Instr) : List Byte := c.opcodeByte i.opcode :: i.operandBytes

/-! ### The opcode table as the host numbers it -/

/-- The configuration whose table holds every row of opcode_table.json at its own byte: `EXT_ALU` true, default `OPC`. -/
def Config.tableConfig : Config where
  extAlu := true

/-- The three bytes of an instruction given as one number, bit 0 the least significant bit of the first byte; every bit
from `nbits` up is 0. -/
def tableBytes (nbits w : Nat) : List Byte :=
  let v := w % 2 ^ nbits
  [BitVec.ofNat 8 v, BitVec.ofNat 8 (v / 256), BitVec.ofNat 8 (v / 65536)]

/-- The instruction the decoder reads from a row of opcode_table.json given as one number. -/
def decodeTableWord (nbits w : Nat) : Option Instr :=
  match decode Config.tableConfig (tableBytes nbits w) with
  | .instr i _ => some i
  | .reject _  => none

end Sys2Proof
end

