-- ==== Sys2Proof/Machine/State.lean ====
section
/-! DEFINITION. The state of the machine as plain data, the reasons a step could stop, and the state after reset. -/

namespace Sys2Proof.Machine

/-- Memory: the cells that hold something else than `Config.unlistedByte`, as (address, byte) pairs with strictly rising
addresses below 65536 (10_state.md R30, 20_memory.md R50; log 18). -/
abbrev Memory := List Host.Cell

/-- The seven status flags as independent booleans (10_state.md R24, R26). -/
structure Flags where
  c : Bool
  z : Bool
  i : Bool
  d : Bool
  b : Bool
  v : Bool
  n : Bool
deriving DecidableEq, Repr

/-- What a decode failure records: the unlisted opcode byte and the address it was fetched from (60_exceptions.md
R300). -/
structure DecodeFailure where
  op   : Byte
  addr : Word
deriving DecidableEq, Repr

/-- The state. `a x y sp pc flags mem` are the whole architectural state of 10_state.md. `config` holds the parameters
of 00_scope.md R5, which no step changes (log 1). `cyc`, `signal` and `log` are the outputs of the instruction steps
(10_state.md R31), the model's own fields (log 7): `cyc` is the running cycle count of the step, and after it the step's
cost; `signal` is what the latest step signalled; `log` is every decode failure signalled so far, newest first. -/
structure State where
  a      : Byte
  x      : Byte
  y      : Byte
  sp     : Byte
  pc     : Word
  flags  : Flags
  mem    : Memory
  config : Config
  cyc    : Nat
  signal : Option DecodeFailure
  log    : List DecodeFailure
deriving DecidableEq, Repr

/-- The reasons the machine could stop with a fault: there is none. "There is no third outcome: no fault, no stuck
state, no refusal arises from any memory address or any register value" (00_scope.md R9, 60_exceptions.md R302; log 20).
The decode failure is a next state that carries its signal (log 6). -/
inductive Fault where
deriving DecidableEq, Repr

/-- The reasons an instruction could have no meaning. -/
inductive Refusal where
  /-- Raised by an arm of exec whose instruction has no meaning yet; no arm raises it. Safe: the machine stops where the
  hardware goes on. -/
  | notModelled (mnemonic : String)
deriving DecidableEq, Repr

/-- All seven flags false (10_state.md R33). -/
def Flags.cleared : Flags where
  c := false
  z := false
  i := false
  d := false
  b := false
  v := false
  n := false

/-- The state right after a full reset of a machine with the default parameters (10_state.md R33, 70_reset_and_hazards.md
R321): nothing is injected, so memory is all 0x00. The model's own fields start empty (log 7). -/
def State.reset : State where
  a      := 0
  x      := 0
  y      := 0
  sp     := Config.resetSP
  pc     := Config.resetPC
  flags  := Flags.cleared
  mem    := []
  config := {}
  cyc    := 0
  signal := none
  log    := []

end Sys2Proof.Machine
end

