-- ==== Sys2Proof/Machine/Ops.lean ====
section
/-! DEFINITION. The named operations over memory and registers: the memory array, register writes, the primitives of
00_scope.md R8 with their cycle costs, the datapath arithmetic, the stack word, and taking the decode failure. -/

namespace Sys2Proof.Machine

/-! ### The memory array -/

/-- The byte at an address; an unlisted address reads `Config.unlistedByte` (10_state.md R30). -/
def Memory.read : Memory → Nat → Byte
  | [], _ => Config.unlistedByte
  | (k, v) :: m, addr => if k = addr then v else Memory.read m addr

/-- The memory with one cell written, in canonical form again: the cell is listed exactly when its byte is not what an
unlisted address reads as. -/
def Memory.write : Memory → Nat → Byte → Memory
  | [], addr, v => if v = Config.unlistedByte then [] else [(addr, v)]
  | (k, u) :: m, addr, v =>
    if addr < k then
      if v = Config.unlistedByte then (k, u) :: m else (addr, v) :: (k, u) :: m
    else if addr = k then
      if v = Config.unlistedByte then m else (addr, v) :: m
    else (k, u) :: Memory.write m addr v

/-- The canonical form of the cells from address `low` up: strictly rising addresses below 65536, no byte equal to what
an unlisted address reads as. -/
def Memory.wfFrom : Nat → Memory → Bool
  | _, [] => true
  | low, (k, v) :: m =>
    decide (low ≤ k) && decide (k < Config.memSize) && decide (v ≠ Config.unlistedByte) && Memory.wfFrom (k + 1) m

/-- The canonical form of memory (log 18). -/
def Memory.wf (m : Memory) : Bool := Memory.wfFrom 0 m

/-! ### Register writes (`r <- v` of 00_scope.md R8) -/

def State.setA (v : Byte) (s : State) : State := { s with a := v }
def State.setX (v : Byte) (s : State) : State := { s with x := v }
def State.setY (v : Byte) (s : State) : State := { s with y := v }
def State.setSP (v : Byte) (s : State) : State := { s with sp := v }
def State.setPC (w : Word) (s : State) : State := { s with pc := w }
def State.setFlags (f : Flags) (s : State) : State := { s with flags := f }
def State.setMem (m : Memory) (s : State) : State := { s with mem := m }

/-- `Internal(n)`: `n` cycles pass and no state changes (40_engine_and_addressing.md R103). -/
def internal (n : Nat) (s : State) : State := { s with cyc := s.cyc + n }

/-! ### Datapath arithmetic (40_engine_and_addressing.md R104 to R108) -/

/-- `zext_16` (00_scope.md R6). -/
def zext16 (b : Byte) : Word := BitVec.ofNat 16 b.toNat

/-- `add8`, the carry out discarded (R105). -/
def add8 (b i : Byte) : Byte := b + i

/-- `add16`, the index zero-extended, the carry out discarded (R106). -/
def add16 (w : Word) (i : Byte) : Word := w + zext16 i

/-- `inc16` (R107). -/
def inc16 (w : Word) : Word := w + 1

/-- `dec16` (R107). -/
def dec16 (w : Word) : Word := w - 1

/-- `page_cross`, on the wrapped sum (R108, decision D18; log 12). -/
def pageCross (base ea : Word) : Bool := hi base != hi ea

/-! ### Memory primitives (20_memory.md R52 to R57) -/

/-- `MemRead(a, 1)`: 1 cycle (R52). -/
def memRead1 (addr : Word) (s : State) : Byte × State :=
  (s.mem.read addr.toNat, internal 1 s)

/-- `MemWrite(a, 1, v)`: 1 cycle (R53). -/
def memWrite1 (addr : Word) (v : Byte) (s : State) : State :=
  internal 1 (s.setMem (s.mem.write addr.toNat v))

/-- `MemRead(a, 2)`: the low byte at `a`, the high byte at `(a + 1) mod 65536`, 2 cycles (R54, R59; log 5, 10). -/
def memRead2 (addr : Word) (s : State) : Word × State :=
  let l := memRead1 addr s
  let h := memRead1 (inc16 addr) l.2
  (mkWord h.1 l.1, h.2)

/-- `MemWrite(a, 2, w)`: the low byte at `a`, then the high byte at `(a + 1) mod 65536`, 2 cycles (R55, R59; log 5,
10). -/
def memWrite2 (addr w : Word) (s : State) : State :=
  memWrite1 (inc16 addr) (hi w) (memWrite1 addr (lo w) s)

/-- `FetchByte()`: the byte at PC, then PC one further, 1 cycle (R56). -/
def fetchByte (s : State) : Byte × State :=
  let r := memRead1 s.pc s
  (r.1, r.2.setPC (inc16 s.pc))

/-- `FetchWord()`: the word at PC, then PC two further, 2 cycles (R57). -/
def fetchWord (s : State) : Word × State :=
  let r := memRead2 s.pc s
  (r.1, r.2.setPC (s.pc + 2))

/-- `FetchByte()` of a one-byte operand whose value the decoder has read: the same effect on PC and cycles (log 11). -/
def operandByte (b : Byte) (s : State) : Byte × State :=
  (b, (internal 1 s).setPC (inc16 s.pc))

/-- `FetchWord()` of a two-byte operand whose value the decoder has read: the same effect on PC and cycles (log 11). -/
def operandWord (w : Word) (s : State) : Word × State :=
  (w, (internal 2 s).setPC (s.pc + 2))

/-! ### The stack word (20_memory.md R58, 10_state.md R23) -/

/-- `STACK_BASE` (00_scope.md R5). -/
def stackBase : Word := 0x0100

/-- `StackAddr(s) = 0x0100 + s` (10_state.md R23). -/
def stackAddr (sp : Byte) : Word := stackBase + zext16 sp

/-- A word is pushed at the old SP and SP moves up by 2 (R58). -/
def pushWord (w : Word) (s : State) : State :=
  (memWrite2 (stackAddr s.sp) w s).setSP (s.sp + 2)

/-- SP moves down by 2 and the word is read there (R58). -/
def pullWord (s : State) : Word × State :=
  let sp := s.sp - 2
  memRead2 (stackAddr sp) (s.setSP sp)

/-- `JSR_INTERNAL` (00_scope.md R5, decision D8; log 8). -/
def jsrInternal : Nat := 1

/-- `RTS_INTERNAL` (00_scope.md R5, decision D8; log 8). -/
def rtsInternal : Nat := 3

/-! ### The frame of an instruction step (40_engine_and_addressing.md R100) and the decode failure -/

/-- The start of a step: the running cycle count is 0 and nothing is signalled yet (R100). -/
def beginStep (s : State) : State := { s with cyc := 0, signal := none }

/-- The two bytes from PC on, from which the decoder takes the operand its format needs; a read changes nothing
(20_memory.md R61; log 11). -/
def operandWindow (s : State) : List Byte :=
  [s.mem.read s.pc.toNat, s.mem.read (inc16 s.pc).toNat]

/-- Taking the only exception, the decode failure `Unhandled(op, at, cyc)` (60_exceptions.md R300, R301, R305), in the
state that the opcode fetch left: no register, flag or cell changes, control goes on with the next byte, and the signal
is given to the host. There is no return from it (R306). Log 6. -/
def takeDecodeFailure (op : Byte) (addr : Word) (s : State) : State :=
  { s with signal := some ⟨op, addr⟩, log := ⟨op, addr⟩ :: s.log }

end Sys2Proof.Machine
end

