-- ==== Sys2Proof/Machine/Operands.lean ====
section
/-! DEFINITION. The addressing modes (40_engine_and_addressing.md R110 to R119, 47_alu_extension.md R206, R207). Each
charges its cycles, moves PC past the operand, and gives the data byte (IM) or the effective address, with the state it
leaves. The operand's value comes from the decoder (log 11). Mode IMP does nothing (R119), and mode ACC has no operand
byte either. -/

namespace Sys2Proof.Machine

/-- `OperandIM()`: cost 1 (R110). -/
def operandIM (b : Byte) (s : State) : Byte × State := operandByte b s

/-- `AddrZP()`: cost 1 (R111). -/
def addrZP (b : Byte) (s : State) : Word × State :=
  let o := operandByte b s
  (zext16 o.1, o.2)

/-- `AddrZPX()`: the sum stays in page 0, cost 2 (R112; the index-add cycle is decision D9, log 9). -/
def addrZPX (b : Byte) (s : State) : Word × State :=
  let o := operandByte b s
  (zext16 (add8 o.1 s.x), internal 1 o.2)

/-- `AddrAB()`: cost 2 (R113). -/
def addrAB (w : Word) (s : State) : Word × State := operandWord w s

/-- The index added to a base address, with one internal cycle when the sum crosses a page (R114, R115, R117). -/
def indexed (i : Byte) (base : Word × State) : Word × State :=
  let ea := add16 base.1 i
  (ea, if pageCross base.1 ea then internal 1 base.2 else base.2)

/-- `AddrABX()`: cost 2, or 3 on a page cross (R114). -/
def addrABX (w : Word) (s : State) : Word × State := indexed s.x (operandWord w s)

/-- `AddrABY()`: cost 2, or 3 on a page cross (R115). -/
def addrABY (w : Word) (s : State) : Word × State := indexed s.y (operandWord w s)

/-- `AddrIZX()`: the pointer address stays in page 0, its word's high byte is at the next address, cost 4 (R116; the
index-add cycle is decision D9, log 9). -/
def addrIZX (b : Byte) (s : State) : Word × State :=
  let o := operandByte b s
  memRead2 (zext16 (add8 o.1 s.x)) (internal 1 o.2)

/-- `AddrIZY()`: cost 3, or 4 on a page cross (R117). -/
def addrIZY (b : Byte) (s : State) : Word × State :=
  let o := operandByte b s
  indexed s.y (memRead2 (zext16 o.1) o.2)

/-- `AddrIN()`: cost 4 (R118). -/
def addrIN (w : Word) (s : State) : Word × State :=
  let p := operandWord w s
  memRead2 p.1 p.2

/-- `AddrABXrmw()`: cost 3 whether or not a page is crossed (47_alu_extension.md R207; log 17). -/
def addrABXrmw (w : Word) (s : State) : Word × State :=
  let o := operandWord w s
  (add16 o.1 s.x, internal 1 o.2)

/-- `MemRead(ea, 1)` at the effective address of a mode. -/
def readOperand (e : Word × State) : Byte × State := memRead1 e.1 e.2

end Sys2Proof.Machine
end

