-- ==== Sys2Proof/Machine/Flags.lean ====
section
/-! DEFINITION. Every flag computation of the spec: SetLoadFlags (40_engine_and_addressing.md R109) and the ALU functions
of the extension (47_alu_extension.md R202 to R205), each giving its result byte and the flags it leaves, and the two
shapes in which an instruction uses them. The extension is PRESUMED: the spec marks it as general knowledge (GK3), log
17. -/

namespace Sys2Proof.Machine

/-- `ZN(r)`: Z and N from a byte, the other flags kept (40_engine_and_addressing.md R109, 10_state.md R26). -/
def Flags.setZN (r : Byte) (f : Flags) : Flags := { f with z := r == 0, n := r.msb }

/-- `SetLoadFlags(v)` (R109). -/
def setLoadFlags (v : Byte) (s : State) : State := s.setFlags (s.flags.setZN v)

/-- `AdcFn(a, m, C)` (47_alu_extension.md R202); D is not read (R201, decision D22). -/
def adcFn (a m : Byte) (f : Flags) : Byte × Flags :=
  let sum := a.toNat + m.toNat + f.c.toNat
  let r : Byte := BitVec.ofNat 8 sum
  (r, { f.setZN r with c := decide (sum > 255), v := ((a ^^^ r) &&& (m ^^^ r)).msb })

/-- `SbcFn(a, m, C) = AdcFn(a, m XOR 0xFF, C)` (R203). -/
def sbcFn (a m : Byte) (f : Flags) : Byte × Flags := adcFn a (m ^^^ 0xFF) f

/-- `AndFn` (R204). -/
def andFn (a m : Byte) (f : Flags) : Byte × Flags :=
  let r := a &&& m
  (r, f.setZN r)

/-- `OraFn` (R204). -/
def oraFn (a m : Byte) (f : Flags) : Byte × Flags :=
  let r := a ||| m
  (r, f.setZN r)

/-- `EorFn` (R204). -/
def eorFn (a m : Byte) (f : Flags) : Byte × Flags :=
  let r := a ^^^ m
  (r, f.setZN r)

/-- `AslFn` (R205). -/
def aslFn (v : Byte) (f : Flags) : Byte × Flags :=
  let r : Byte := v <<< 1
  (r, { f.setZN r with c := v.msb })

/-- `LsrFn` (R205). -/
def lsrFn (v : Byte) (f : Flags) : Byte × Flags :=
  let r : Byte := v >>> 1
  (r, { f.setZN r with c := v.getLsbD 0 })

/-- `RolFn`: the old Carry enters at bit 0 (R205). -/
def rolFn (v : Byte) (f : Flags) : Byte × Flags :=
  let r : Byte := (v <<< 1) + BitVec.ofNat 8 f.c.toNat
  (r, { f.setZN r with c := v.msb })

/-- `RorFn`: the old Carry enters at bit 7 (R205). -/
def rorFn (v : Byte) (f : Flags) : Byte × Flags :=
  let r : Byte := (v >>> 1) + BitVec.ofNat 8 (128 * f.c.toNat)
  (r, { f.setZN r with c := v.getLsbD 0 })

/-- The tail of ADC, SBC, AND, ORA and EOR: `A <- fn(A, m)` with the flags it writes (47_alu_extension.md R206). -/
def accumulate (fn : Byte → Byte → Flags → Byte × Flags) (o : Byte × State) : Host.Outcome State Fault Refusal :=
  let r := fn o.2.a o.1 o.2.flags
  .next ((o.2.setA r.1).setFlags r.2)

/-- A shift of the accumulator: `Internal(1); A <- fn(A)` (47_alu_extension.md R206, R207). -/
def modifyA (fn : Byte → Flags → Byte × Flags) (s : State) : Host.Outcome State Fault Refusal :=
  let r := fn s.a s.flags
  .next (((internal 1 s).setA r.1).setFlags r.2)

/-- A shift of a memory byte: read, `Internal(1)`, write back (47_alu_extension.md R206, R207). -/
def modifyMem (fn : Byte → Flags → Byte × Flags) (e : Word × State) : Host.Outcome State Fault Refusal :=
  let v := readOperand e
  let r := fn v.1 v.2.flags
  .next ((memWrite1 e.1 r.1 (internal 1 v.2)).setFlags r.2)

end Sys2Proof.Machine
end

