-- ==== Sys2Proof/Machine/Arith.lean ====
section
/-! DEFINITION. ADC and SBC in eight modes each (47_alu_extension.md R220 to R235). PRESUMED: the spec marks the whole extension as general knowledge (GK3), log 17. -/

namespace Sys2Proof.Machine

/-- ADC_IM, 47_alu_extension.md R220: `v <- OperandIM(); A <- AdcFn(A, v, C)` with its flags. -/
def execAdcIm (b : Byte) (s : State) : Host.Outcome State Fault Refusal :=
  accumulate adcFn (operandIM b s)

/-- ADC_ZP, 47_alu_extension.md R221: `ea <- AddrZP(); v <- MemRead(ea, 1); A <- AdcFn(A, v, C)` with its flags. -/
def execAdcZp (b : Byte) (s : State) : Host.Outcome State Fault Refusal :=
  accumulate adcFn (readOperand (addrZP b s))

/-- ADC_ZPX, 47_alu_extension.md R222: `ea <- AddrZPX(); v <- MemRead(ea, 1); A <- AdcFn(A, v, C)` with its flags. -/
def execAdcZpx (b : Byte) (s : State) : Host.Outcome State Fault Refusal :=
  accumulate adcFn (readOperand (addrZPX b s))

/-- ADC_AB, 47_alu_extension.md R223: `ea <- AddrAB(); v <- MemRead(ea, 1); A <- AdcFn(A, v, C)` with its flags. -/
def execAdcAb (w : Word) (s : State) : Host.Outcome State Fault Refusal :=
  accumulate adcFn (readOperand (addrAB w s))

/-- ADC_ABX, 47_alu_extension.md R224: `ea <- AddrABX(); v <- MemRead(ea, 1); A <- AdcFn(A, v, C)` with its flags. -/
def execAdcAbx (w : Word) (s : State) : Host.Outcome State Fault Refusal :=
  accumulate adcFn (readOperand (addrABX w s))

/-- ADC_ABY, 47_alu_extension.md R225: `ea <- AddrABY(); v <- MemRead(ea, 1); A <- AdcFn(A, v, C)` with its flags. -/
def execAdcAby (w : Word) (s : State) : Host.Outcome State Fault Refusal :=
  accumulate adcFn (readOperand (addrABY w s))

/-- ADC_IZX, 47_alu_extension.md R226: `ea <- AddrIZX(); v <- MemRead(ea, 1); A <- AdcFn(A, v, C)` with its flags. -/
def execAdcIzx (b : Byte) (s : State) : Host.Outcome State Fault Refusal :=
  accumulate adcFn (readOperand (addrIZX b s))

/-- ADC_IZY, 47_alu_extension.md R227: `ea <- AddrIZY(); v <- MemRead(ea, 1); A <- AdcFn(A, v, C)` with its flags. -/
def execAdcIzy (b : Byte) (s : State) : Host.Outcome State Fault Refusal :=
  accumulate adcFn (readOperand (addrIZY b s))

/-- SBC_IM, 47_alu_extension.md R228: `v <- OperandIM(); A <- SbcFn(A, v, C)` with its flags. -/
def execSbcIm (b : Byte) (s : State) : Host.Outcome State Fault Refusal :=
  accumulate sbcFn (operandIM b s)

/-- SBC_ZP, 47_alu_extension.md R229: `ea <- AddrZP(); v <- MemRead(ea, 1); A <- SbcFn(A, v, C)` with its flags. -/
def execSbcZp (b : Byte) (s : State) : Host.Outcome State Fault Refusal :=
  accumulate sbcFn (readOperand (addrZP b s))

/-- SBC_ZPX, 47_alu_extension.md R230: `ea <- AddrZPX(); v <- MemRead(ea, 1); A <- SbcFn(A, v, C)` with its flags. -/
def execSbcZpx (b : Byte) (s : State) : Host.Outcome State Fault Refusal :=
  accumulate sbcFn (readOperand (addrZPX b s))

/-- SBC_AB, 47_alu_extension.md R231: `ea <- AddrAB(); v <- MemRead(ea, 1); A <- SbcFn(A, v, C)` with its flags. -/
def execSbcAb (w : Word) (s : State) : Host.Outcome State Fault Refusal :=
  accumulate sbcFn (readOperand (addrAB w s))

/-- SBC_ABX, 47_alu_extension.md R232: `ea <- AddrABX(); v <- MemRead(ea, 1); A <- SbcFn(A, v, C)` with its flags. -/
def execSbcAbx (w : Word) (s : State) : Host.Outcome State Fault Refusal :=
  accumulate sbcFn (readOperand (addrABX w s))

/-- SBC_ABY, 47_alu_extension.md R233: `ea <- AddrABY(); v <- MemRead(ea, 1); A <- SbcFn(A, v, C)` with its flags. -/
def execSbcAby (w : Word) (s : State) : Host.Outcome State Fault Refusal :=
  accumulate sbcFn (readOperand (addrABY w s))

/-- SBC_IZX, 47_alu_extension.md R234: `ea <- AddrIZX(); v <- MemRead(ea, 1); A <- SbcFn(A, v, C)` with its flags. -/
def execSbcIzx (b : Byte) (s : State) : Host.Outcome State Fault Refusal :=
  accumulate sbcFn (readOperand (addrIZX b s))

/-- SBC_IZY, 47_alu_extension.md R235: `ea <- AddrIZY(); v <- MemRead(ea, 1); A <- SbcFn(A, v, C)` with its flags. -/
def execSbcIzy (b : Byte) (s : State) : Host.Outcome State Fault Refusal :=
  accumulate sbcFn (readOperand (addrIZY b s))

end Sys2Proof.Machine
end

