-- ==== Sys2Proof/Machine/Control.lean ====
section
/-! DEFINITION. JMP, JSR and RTS (42_jump_subroutine.md R160 to R163). -/

namespace Sys2Proof.Machine

/-- JMP_AB, 42_jump_subroutine.md R160: `t <- AddrAB(); PC <- t`. -/
def execJmpAb (w : Word) (s : State) : Host.Outcome State Fault Refusal :=
  let t := addrAB w s
  .next (t.2.setPC t.1)

/-- JMP_IN, 42_jump_subroutine.md R161: `t <- AddrIN(); PC <- t`. -/
def execJmpIn (w : Word) (s : State) : Host.Outcome State Fault Refusal :=
  let t := addrIN w s
  .next (t.2.setPC t.1)

/-- JSR_AB, 42_jump_subroutine.md R162: the operand is fetched, `dec16(PC)` of the PC after it is pushed, `JSR_INTERNAL`
cycles pass, then `PC <- t`. -/
def execJsrAb (w : Word) (s : State) : Host.Outcome State Fault Refusal :=
  let t := operandWord w s
  let pushed := pushWord (dec16 t.2.pc) t.2
  .next ((internal jsrInternal pushed).setPC t.1)

/-- RTS, 42_jump_subroutine.md R163: the word is pulled, `RTS_INTERNAL` cycles pass, then `PC <- inc16(r)`. -/
def execRts (s : State) : Host.Outcome State Fault Refusal :=
  let r := pullWord s
  .next ((internal rtsInternal r.2).setPC (inc16 r.1))

end Sys2Proof.Machine
end

