-- ==== Sys2Proof/Machine/Load.lean ====
section
/-! DEFINITION. LDA in its eight modes (41_load_store.md R140 to R148). Each meaning runs after the opcode byte was
fetched (40_engine_and_addressing.md R100). -/

namespace Sys2Proof.Machine

/-- The tail of every LDA: `A <- v; SetLoadFlags(A)` (41_load_store.md R148). -/
def loadA (o : Byte × State) : Host.Outcome State Fault Refusal :=
  .next (setLoadFlags o.1 (o.2.setA o.1))

/-- LDA_IM, 41_load_store.md R140: `v <- OperandIM(); A <- v; SetLoadFlags(A)`. -/
def execLdaIm (b : Byte) (s : State) : Host.Outcome State Fault Refusal :=
  loadA (operandIM b s)

/-- LDA_ZP, 41_load_store.md R141: `ea <- AddrZP(); v <- MemRead(ea, 1); A <- v; SetLoadFlags(A)`. -/
def execLdaZp (b : Byte) (s : State) : Host.Outcome State Fault Refusal :=
  loadA (readOperand (addrZP b s))

/-- LDA_ZPX, 41_load_store.md R142: `ea <- AddrZPX(); v <- MemRead(ea, 1); A <- v; SetLoadFlags(A)`. -/
def execLdaZpx (b : Byte) (s : State) : Host.Outcome State Fault Refusal :=
  loadA (readOperand (addrZPX b s))

/-- LDA_AB, 41_load_store.md R143: `ea <- AddrAB(); v <- MemRead(ea, 1); A <- v; SetLoadFlags(A)`. -/
def execLdaAb (w : Word) (s : State) : Host.Outcome State Fault Refusal :=
  loadA (readOperand (addrAB w s))

/-- LDA_ABX, 41_load_store.md R144: `ea <- AddrABX(); v <- MemRead(ea, 1); A <- v; SetLoadFlags(A)`. -/
def execLdaAbx (w : Word) (s : State) : Host.Outcome State Fault Refusal :=
  loadA (readOperand (addrABX w s))

/-- LDA_ABY, 41_load_store.md R145: `ea <- AddrABY(); v <- MemRead(ea, 1); A <- v; SetLoadFlags(A)`. -/
def execLdaAby (w : Word) (s : State) : Host.Outcome State Fault Refusal :=
  loadA (readOperand (addrABY w s))

/-- LDA_IZX, 41_load_store.md R146: `ea <- AddrIZX(); v <- MemRead(ea, 1); A <- v; SetLoadFlags(A)`. -/
def execLdaIzx (b : Byte) (s : State) : Host.Outcome State Fault Refusal :=
  loadA (readOperand (addrIZX b s))

/-- LDA_IZY, 41_load_store.md R147: `ea <- AddrIZY(); v <- MemRead(ea, 1); A <- v; SetLoadFlags(A)`. -/
def execLdaIzy (b : Byte) (s : State) : Host.Outcome State Fault Refusal :=
  loadA (readOperand (addrIZY b s))

end Sys2Proof.Machine
end

