-- ==== Sys2Proof/Machine/Logic.lean ====
section
/-! DEFINITION. AND, ORA and EOR in eight modes each (47_alu_extension.md R236 to R259). PRESUMED: the spec marks the whole extension as general knowledge (GK3), log 17. -/

namespace Sys2Proof.Machine

/-- AND_IM, 47_alu_extension.md R236: `v <- OperandIM(); A <- AndFn(A, v)` with its flags. -/
def execAndIm (b : Byte) (s : State) : Host.Outcome State Fault Refusal :=
  accumulate andFn (operandIM b s)

/-- AND_ZP, 47_alu_extension.md R237: `ea <- AddrZP(); v <- MemRead(ea, 1); A <- AndFn(A, v)` with its flags. -/
def execAndZp (b : Byte) (s : State) : Host.Outcome State Fault Refusal :=
  accumulate andFn (readOperand (addrZP b s))

/-- AND_ZPX, 47_alu_extension.md R238: `ea <- AddrZPX(); v <- MemRead(ea, 1); A <- AndFn(A, v)` with its flags. -/
def execAndZpx (b : Byte) (s : State) : Host.Outcome State Fault Refusal :=
  accumulate andFn (readOperand (addrZPX b s))

/-- AND_AB, 47_alu_extension.md R239: `ea <- AddrAB(); v <- MemRead(ea, 1); A <- AndFn(A, v)` with its flags. -/
def execAndAb (w : Word) (s : State) : Host.Outcome State Fault Refusal :=
  accumulate andFn (readOperand (addrAB w s))

/-- AND_ABX, 47_alu_extension.md R240: `ea <- AddrABX(); v <- MemRead(ea, 1); A <- AndFn(A, v)` with its flags. -/
def execAndAbx (w : Word) (s : State) : Host.Outcome State Fault Refusal :=
  accumulate andFn (readOperand (addrABX w s))

/-- AND_ABY, 47_alu_extension.md R241: `ea <- AddrABY(); v <- MemRead(ea, 1); A <- AndFn(A, v)` with its flags. -/
def execAndAby (w : Word) (s : State) : Host.Outcome State Fault Refusal :=
  accumulate andFn (readOperand (addrABY w s))

/-- AND_IZX, 47_alu_extension.md R242: `ea <- AddrIZX(); v <- MemRead(ea, 1); A <- AndFn(A, v)` with its flags. -/
def execAndIzx (b : Byte) (s : State) : Host.Outcome State Fault Refusal :=
  accumulate andFn (readOperand (addrIZX b s))

/-- AND_IZY, 47_alu_extension.md R243: `ea <- AddrIZY(); v <- MemRead(ea, 1); A <- AndFn(A, v)` with its flags. -/
def execAndIzy (b : Byte) (s : State) : Host.Outcome State Fault Refusal :=
  accumulate andFn (readOperand (addrIZY b s))

/-- ORA_IM, 47_alu_extension.md R244: `v <- OperandIM(); A <- OraFn(A, v)` with its flags. -/
def execOraIm (b : Byte) (s : State) : Host.Outcome State Fault Refusal :=
  accumulate oraFn (operandIM b s)

/-- ORA_ZP, 47_alu_extension.md R245: `ea <- AddrZP(); v <- MemRead(ea, 1); A <- OraFn(A, v)` with its flags. -/
def execOraZp (b : Byte) (s : State) : Host.Outcome State Fault Refusal :=
  accumulate oraFn (readOperand (addrZP b s))

/-- ORA_ZPX, 47_alu_extension.md R246: `ea <- AddrZPX(); v <- MemRead(ea, 1); A <- OraFn(A, v)` with its flags. -/
def execOraZpx (b : Byte) (s : State) : Host.Outcome State Fault Refusal :=
  accumulate oraFn (readOperand (addrZPX b s))

/-- ORA_AB, 47_alu_extension.md R247: `ea <- AddrAB(); v <- MemRead(ea, 1); A <- OraFn(A, v)` with its flags. -/
def execOraAb (w : Word) (s : State) : Host.Outcome State Fault Refusal :=
  accumulate oraFn (readOperand (addrAB w s))

/-- ORA_ABX, 47_alu_extension.md R248: `ea <- AddrABX(); v <- MemRead(ea, 1); A <- OraFn(A, v)` with its flags. -/
def execOraAbx (w : Word) (s : State) : Host.Outcome State Fault Refusal :=
  accumulate oraFn (readOperand (addrABX w s))

/-- ORA_ABY, 47_alu_extension.md R249: `ea <- AddrABY(); v <- MemRead(ea, 1); A <- OraFn(A, v)` with its flags. -/
def execOraAby (w : Word) (s : State) : Host.Outcome State Fault Refusal :=
  accumulate oraFn (readOperand (addrABY w s))

/-- ORA_IZX, 47_alu_extension.md R250: `ea <- AddrIZX(); v <- MemRead(ea, 1); A <- OraFn(A, v)` with its flags. -/
def execOraIzx (b : Byte) (s : State) : Host.Outcome State Fault Refusal :=
  accumulate oraFn (readOperand (addrIZX b s))

/-- ORA_IZY, 47_alu_extension.md R251: `ea <- AddrIZY(); v <- MemRead(ea, 1); A <- OraFn(A, v)` with its flags. -/
def execOraIzy (b : Byte) (s : State) : Host.Outcome State Fault Refusal :=
  accumulate oraFn (readOperand (addrIZY b s))

/-- EOR_IM, 47_alu_extension.md R252: `v <- OperandIM(); A <- EorFn(A, v)` with its flags. -/
def execEorIm (b : Byte) (s : State) : Host.Outcome State Fault Refusal :=
  accumulate eorFn (operandIM b s)

/-- EOR_ZP, 47_alu_extension.md R253: `ea <- AddrZP(); v <- MemRead(ea, 1); A <- EorFn(A, v)` with its flags. -/
def execEorZp (b : Byte) (s : State) : Host.Outcome State Fault Refusal :=
  accumulate eorFn (readOperand (addrZP b s))

/-- EOR_ZPX, 47_alu_extension.md R254: `ea <- AddrZPX(); v <- MemRead(ea, 1); A <- EorFn(A, v)` with its flags. -/
def execEorZpx (b : Byte) (s : State) : Host.Outcome State Fault Refusal :=
  accumulate eorFn (readOperand (addrZPX b s))

/-- EOR_AB, 47_alu_extension.md R255: `ea <- AddrAB(); v <- MemRead(ea, 1); A <- EorFn(A, v)` with its flags. -/
def execEorAb (w : Word) (s : State) : Host.Outcome State Fault Refusal :=
  accumulate eorFn (readOperand (addrAB w s))

/-- EOR_ABX, 47_alu_extension.md R256: `ea <- AddrABX(); v <- MemRead(ea, 1); A <- EorFn(A, v)` with its flags. -/
def execEorAbx (w : Word) (s : State) : Host.Outcome State Fault Refusal :=
  accumulate eorFn (readOperand (addrABX w s))

/-- EOR_ABY, 47_alu_extension.md R257: `ea <- AddrABY(); v <- MemRead(ea, 1); A <- EorFn(A, v)` with its flags. -/
def execEorAby (w : Word) (s : State) : Host.Outcome State Fault Refusal :=
  accumulate eorFn (readOperand (addrABY w s))

/-- EOR_IZX, 47_alu_extension.md R258: `ea <- AddrIZX(); v <- MemRead(ea, 1); A <- EorFn(A, v)` with its flags. -/
def execEorIzx (b : Byte) (s : State) : Host.Outcome State Fault Refusal :=
  accumulate eorFn (readOperand (addrIZX b s))

/-- EOR_IZY, 47_alu_extension.md R259: `ea <- AddrIZY(); v <- MemRead(ea, 1); A <- EorFn(A, v)` with its flags. -/
def execEorIzy (b : Byte) (s : State) : Host.Outcome State Fault Refusal :=
  accumulate eorFn (readOperand (addrIZY b s))

end Sys2Proof.Machine
end

