-- ==== Sys2Proof/Machine/Shift.lean ====
section
/-! DEFINITION. ASL, LSR, ROL and ROR in five forms each (47_alu_extension.md R260 to R279). PRESUMED: the spec marks the whole extension as general knowledge (GK3), log 17. -/

namespace Sys2Proof.Machine

/-- ASL_ACC, 47_alu_extension.md R260: `Internal(1); A <- AslFn(A)` with its flags. -/
def execAslAcc (s : State) : Host.Outcome State Fault Refusal :=
  modifyA aslFn s

/-- ASL_ZP, 47_alu_extension.md R261: `ea <- AddrZP(); v <- MemRead(ea, 1); Internal(1); MemWrite(ea, 1, AslFn(v))`
with its flags. -/
def execAslZp (b : Byte) (s : State) : Host.Outcome State Fault Refusal :=
  modifyMem aslFn (addrZP b s)

/-- ASL_ZPX, 47_alu_extension.md R262: `ea <- AddrZPX(); v <- MemRead(ea, 1); Internal(1); MemWrite(ea, 1, AslFn(v))`
with its flags. -/
def execAslZpx (b : Byte) (s : State) : Host.Outcome State Fault Refusal :=
  modifyMem aslFn (addrZPX b s)

/-- ASL_AB, 47_alu_extension.md R263: `ea <- AddrAB(); v <- MemRead(ea, 1); Internal(1); MemWrite(ea, 1, AslFn(v))`
with its flags. -/
def execAslAb (w : Word) (s : State) : Host.Outcome State Fault Refusal :=
  modifyMem aslFn (addrAB w s)

/-- ASL_ABX, 47_alu_extension.md R264: `ea <- AddrABXrmw(); v <- MemRead(ea, 1); Internal(1); MemWrite(ea, 1, AslFn(v))`
with its flags. -/
def execAslAbx (w : Word) (s : State) : Host.Outcome State Fault Refusal :=
  modifyMem aslFn (addrABXrmw w s)

/-- LSR_ACC, 47_alu_extension.md R265: `Internal(1); A <- LsrFn(A)` with its flags. -/
def execLsrAcc (s : State) : Host.Outcome State Fault Refusal :=
  modifyA lsrFn s

/-- LSR_ZP, 47_alu_extension.md R266: `ea <- AddrZP(); v <- MemRead(ea, 1); Internal(1); MemWrite(ea, 1, LsrFn(v))`
with its flags. -/
def execLsrZp (b : Byte) (s : State) : Host.Outcome State Fault Refusal :=
  modifyMem lsrFn (addrZP b s)

/-- LSR_ZPX, 47_alu_extension.md R267: `ea <- AddrZPX(); v <- MemRead(ea, 1); Internal(1); MemWrite(ea, 1, LsrFn(v))`
with its flags. -/
def execLsrZpx (b : Byte) (s : State) : Host.Outcome State Fault Refusal :=
  modifyMem lsrFn (addrZPX b s)

/-- LSR_AB, 47_alu_extension.md R268: `ea <- AddrAB(); v <- MemRead(ea, 1); Internal(1); MemWrite(ea, 1, LsrFn(v))`
with its flags. -/
def execLsrAb (w : Word) (s : State) : Host.Outcome State Fault Refusal :=
  modifyMem lsrFn (addrAB w s)

/-- LSR_ABX, 47_alu_extension.md R269: `ea <- AddrABXrmw(); v <- MemRead(ea, 1); Internal(1); MemWrite(ea, 1, LsrFn(v))`
with its flags. -/
def execLsrAbx (w : Word) (s : State) : Host.Outcome State Fault Refusal :=
  modifyMem lsrFn (addrABXrmw w s)

/-- ROL_ACC, 47_alu_extension.md R270: `Internal(1); A <- RolFn(A, C)` with its flags. -/
def execRolAcc (s : State) : Host.Outcome State Fault Refusal :=
  modifyA rolFn s

/-- ROL_ZP, 47_alu_extension.md R271: `ea <- AddrZP(); v <- MemRead(ea, 1); Internal(1); MemWrite(ea, 1, RolFn(v, C))`
with its flags. -/
def execRolZp (b : Byte) (s : State) : Host.Outcome State Fault Refusal :=
  modifyMem rolFn (addrZP b s)

/-- ROL_ZPX, 47_alu_extension.md R272: `ea <- AddrZPX(); v <- MemRead(ea, 1); Internal(1); MemWrite(ea, 1, RolFn(v, C))`
with its flags. -/
def execRolZpx (b : Byte) (s : State) : Host.Outcome State Fault Refusal :=
  modifyMem rolFn (addrZPX b s)

/-- ROL_AB, 47_alu_extension.md R273: `ea <- AddrAB(); v <- MemRead(ea, 1); Internal(1); MemWrite(ea, 1, RolFn(v, C))`
with its flags. -/
def execRolAb (w : Word) (s : State) : Host.Outcome State Fault Refusal :=
  modifyMem rolFn (addrAB w s)

/-- ROL_ABX, 47_alu_extension.md R274: `ea <- AddrABXrmw(); v <- MemRead(ea, 1); Internal(1); MemWrite(ea, 1, RolFn(v, C))`
with its flags. -/
def execRolAbx (w : Word) (s : State) : Host.Outcome State Fault Refusal :=
  modifyMem rolFn (addrABXrmw w s)

/-- ROR_ACC, 47_alu_extension.md R275: `Internal(1); A <- RorFn(A, C)` with its flags. -/
def execRorAcc (s : State) : Host.Outcome State Fault Refusal :=
  modifyA rorFn s

/-- ROR_ZP, 47_alu_extension.md R276: `ea <- AddrZP(); v <- MemRead(ea, 1); Internal(1); MemWrite(ea, 1, RorFn(v, C))`
with its flags. -/
def execRorZp (b : Byte) (s : State) : Host.Outcome State Fault Refusal :=
  modifyMem rorFn (addrZP b s)

/-- ROR_ZPX, 47_alu_extension.md R277: `ea <- AddrZPX(); v <- MemRead(ea, 1); Internal(1); MemWrite(ea, 1, RorFn(v, C))`
with its flags. -/
def execRorZpx (b : Byte) (s : State) : Host.Outcome State Fault Refusal :=
  modifyMem rorFn (addrZPX b s)

/-- ROR_AB, 47_alu_extension.md R278: `ea <- AddrAB(); v <- MemRead(ea, 1); Internal(1); MemWrite(ea, 1, RorFn(v, C))`
with its flags. -/
def execRorAb (w : Word) (s : State) : Host.Outcome State Fault Refusal :=
  modifyMem rorFn (addrAB w s)

/-- ROR_ABX, 47_alu_extension.md R279: `ea <- AddrABXrmw(); v <- MemRead(ea, 1); Internal(1); MemWrite(ea, 1, RorFn(v, C))`
with its flags. -/
def execRorAbx (w : Word) (s : State) : Host.Outcome State Fault Refusal :=
  modifyMem rorFn (addrABXrmw w s)

end Sys2Proof.Machine
end

