-- ==== Sys2Proof/Machine/Store.lean ====
section
/-! DEFINITION. STA in its seven modes (41_load_store.md R149 to R156). -/

namespace Sys2Proof.Machine

/-- The tail of every STA: `MemWrite(ea, 1, A)`, no flag (41_load_store.md R149). -/
def storeA (e : Word × State) : Host.Outcome State Fault Refusal :=
  .next (memWrite1 e.1 e.2.a e.2)

/-- STA_ZP, 41_load_store.md R150: `ea <- AddrZP(); MemWrite(ea, 1, A)`. -/
def execStaZp (b : Byte) (s : State) : Host.Outcome State Fault Refusal :=
  storeA (addrZP b s)

/-- STA_ZPX, 41_load_store.md R151: `ea <- AddrZPX(); MemWrite(ea, 1, A)`. -/
def execStaZpx (b : Byte) (s : State) : Host.Outcome State Fault Refusal :=
  storeA (addrZPX b s)

/-- STA_AB, 41_load_store.md R152: `ea <- AddrAB(); MemWrite(ea, 1, A)`. -/
def execStaAb (w : Word) (s : State) : Host.Outcome State Fault Refusal :=
  storeA (addrAB w s)

/-- STA_ABX, 41_load_store.md R153: `ea <- AddrABX(); MemWrite(ea, 1, A)`. -/
def execStaAbx (w : Word) (s : State) : Host.Outcome State Fault Refusal :=
  storeA (addrABX w s)

/-- STA_ABY, 41_load_store.md R154: `ea <- AddrABY(); MemWrite(ea, 1, A)`. -/
def execStaAby (w : Word) (s : State) : Host.Outcome State Fault Refusal :=
  storeA (addrABY w s)

/-- STA_IZX, 41_load_store.md R155: `ea <- AddrIZX(); MemWrite(ea, 1, A)`. -/
def execStaIzx (b : Byte) (s : State) : Host.Outcome State Fault Refusal :=
  storeA (addrIZX b s)

/-- STA_IZY, 41_load_store.md R156: `ea <- AddrIZY(); MemWrite(ea, 1, A)`. -/
def execStaIzy (b : Byte) (s : State) : Host.Outcome State Fault Refusal :=
  storeA (addrIZY b s)

end Sys2Proof.Machine
end

