-- ==== Sys2Proof/Machine/Step.lean ====
section
/-! DEFINITION. The instruction step (40_engine_and_addressing.md R100), and how a test places an instruction. -/

namespace Sys2Proof.Machine

/-- `InstructionStep()` (R100): the opcode byte is fetched, the instruction it starts is executed, or the decode failure
is taken. -/
def step (s : State) : Host.Outcome State Fault Refusal :=
  let f := fetchByte (beginStep s)
  match decode s.config (f.1 :: operandWindow f.2) with
  | .instr i _ => exec i f.2
  | .reject _  => .next (takeDecodeFailure f.1 s.pc f.2)

/-- The instruction given as one number of opcode_table.json, injected at PC (20_memory.md R70). Its row is in the opcode
table afterwards: `OPC` is the default, and `EXT_ALU` is true when the row belongs to the extension (log 2). -/
def State.withFetchWord (s : State) (nbits w : Nat) : State :=
  let bytes := tableBytes nbits w
  let isExt := match Config.tableConfig.lookup (bytes.getD 0 0) with
    | some n => n.isExtension
    | none   => false
  { s with
    mem := ((s.mem.write s.pc.toNat (bytes.getD 0 0)).write (s.pc + 1).toNat (bytes.getD 1 0)).write
      (s.pc + 2).toNat (bytes.getD 2 0)
    config := { s.config with extAlu := s.config.extAlu || isExt, opc := [] } }

end Sys2Proof.Machine
end

