-- ==== Sys2Proof/Machine/Commands.lean ====
section
/-! DEFINITION. What the host does between instruction steps: Step and its result, Run, the two resets, injection, presets
and the debug view (60_exceptions.md R311, 10_state.md R36, R37, 70_reset_and_hazards.md R320 to R322). None of these
costs a cycle but the steps that Step and Run make. Log 16. -/

namespace Sys2Proof.Machine

/-! ### The resets -/

/-- Light reset: registers, flags and PC, memory untouched (70_reset_and_hazards.md R320). -/
def lightReset (s : State) : State :=
  { s with a := 0, x := 0, y := 0, sp := Config.resetSP, pc := Config.resetPC, flags := Flags.cleared }

/-- Full reset: the light reset and every cell 0x00, one transition (70_reset_and_hazards.md R321). -/
def fullReset (s : State) : State := (lightReset s).setMem []

/-- A machine instance on which no reset was issued yet: memory is all zero, the registers and flags are whatever is
given (10_state.md R35, decision D14; log 15). -/
def State.created (a x y sp : Byte) (pc : Word) (flags : Flags) (config : Config) : State :=
  { State.reset with a := a, x := x, y := y, sp := sp, pc := pc, flags := flags, config := config }

/-! ### Injection, presets and views -/

/-- The host writes one cell (20_memory.md R70). -/
def inject (addr : Word) (v : Byte) (s : State) : State := s.setMem (s.mem.write addr.toNat v)

/-- The host writes consecutive cells, addresses taken mod 65536 (20_memory.md R51, R70). -/
def injectBytes : Word → List Byte → State → State
  | _, [], s => s
  | addr, v :: vs, s => injectBytes (inc16 addr) vs (inject addr v s)

/-- The host reads one cell: "raw memory byte read by absolute index" (10_state.md R36, 20_memory.md R70). -/
def peek (addr : Word) (s : State) : Byte := s.mem.read addr.toNat

/-- The debug view: the triple (A, X, Y), PC, SP, and the flags in the order C, Z, I, D, B, V, N (10_state.md R36). -/
structure DebugView where
  axy   : Byte × Byte × Byte
  pc    : Word
  sp    : Byte
  flags : List Bool
deriving DecidableEq, Repr

/-- The flags as an ordered sequence (10_state.md R36). -/
def Flags.sequence (f : Flags) : List Bool := [f.c, f.z, f.i, f.d, f.b, f.v, f.n]

/-- The debug view of a state (10_state.md R36). -/
def State.debugView (s : State) : DebugView where
  axy   := (s.a, s.x, s.y)
  pc    := s.pc
  sp    := s.sp
  flags := s.flags.sequence

/-- The packed status byte in the configured layout (10_state.md R25; log 4). -/
def State.statusByte (s : State) : Byte :=
  let f := s.flags
  let low := f.c.toNat + 2 * f.z.toNat + 4 * f.i.toNat + 8 * f.d.toNat + 16 * f.b.toNat
  match s.config.statusLayout with
  | .v5n6 => BitVec.ofNat 8 (low + 32 * f.v.toNat + 64 * f.n.toNat)
  | .v6n7 => BitVec.ofNat 8 (low + 64 * f.v.toNat + 128 * f.n.toNat)

/-! ### Step and Run -/

/-- The outcome of an instruction step (00_scope.md R9). -/
inductive StepOutcome where
  | done (cyc : Nat)
  | unhandled (op : Byte) (addr : Word) (cyc : Nat)
deriving DecidableEq, Repr

/-- The outcome of the step that led to this state (00_scope.md R9, 40_engine_and_addressing.md R120). -/
def State.outcome (s : State) : StepOutcome :=
  match s.signal with
  | none   => .done s.cyc
  | some f => .unhandled f.op f.addr s.cyc

/-- What Step returns as a number, where a host wants one: the cycles used, or `STEP_SENTINEL`, which the spec leaves
open (40_engine_and_addressing.md R120, decision D13; log 14). -/
def StepOutcome.value (sentinel : Int) : StepOutcome → Int
  | .done cyc        => cyc
  | .unhandled _ _ _ => sentinel

/-- A sentinel is "distinct from any valid cycle count" (R120: 2..7). -/
def validSentinel (n : Int) : Bool := decide (n < 2) || decide (7 < n)

/-- Run's loop with a bound on the number of steps. -/
def runFor : Nat → Int → State → Host.Outcome (Int × State) Fault Refusal
  | 0, n, s => .next (n, s)
  | k + 1, n, s =>
    if 0 < n then
      match step s with
      | .next t    => runFor k (n - t.cyc) t
      | .fault r   => .fault r
      | .refused r => .refused r
    else .next (n, s)

/-- `Run(n)`: steps while the budget is above 0, and answers the remaining cycles (40_engine_and_addressing.md R121). At
most `n` steps are made, since every step costs at least 1 cycle (R122). A decode failure is reported in the state's
`log`. Log 13. -/
def run (n : Int) (s : State) : Host.Outcome (Int × State) Fault Refusal := runFor n.toNat n s

/-! ### The host's commands as data -/

/-- Every command of the host that changes the machine (92_eei_decisions.md D1). -/
inductive HostCommand where
  | step
  | run (budget : Int)
  | lightReset
  | fullReset
  | inject (addr : Word) (v : Byte)
  | presetA (v : Byte)
  | presetX (v : Byte)
  | presetY (v : Byte)
  | presetSP (v : Byte)
  | presetPC (w : Word)
  | presetFlags (f : Flags)
deriving DecidableEq, Repr

/-- The state a command leaves (60_exceptions.md R311, 10_state.md R37). -/
def command (cmd : HostCommand) (s : State) : Host.Outcome State Fault Refusal :=
  match cmd with
  | .step          => step s
  | .run n         =>
    match run n s with
    | .next r    => .next r.2
    | .fault r   => .fault r
    | .refused r => .refused r
  | .lightReset    => .next (lightReset s)
  | .fullReset     => .next (fullReset s)
  | .inject addr v => .next (inject addr v s)
  | .presetA v     => .next (s.setA v)
  | .presetX v     => .next (s.setX v)
  | .presetY v     => .next (s.setY v)
  | .presetSP v    => .next (s.setSP v)
  | .presetPC w    => .next (s.setPC w)
  | .presetFlags f => .next (s.setFlags f)

end Sys2Proof.Machine
end

