-- ==== Sys2Proof/Safety.lean ====
section
/-! DEFINITION. What counts as a safe run, the invariant that every step keeps, and the numbers in which the claims say
what the addressing-mode rules say, written from the rules and not from the model's own operations. -/

namespace Sys2Proof.Machine

/-! ### Safe runs -/

/-- No decode failure was signalled so far: the premise that 60_exceptions.md R301 asks of every claim about a program.
Safe: it only excludes runs. -/
def State.noDecodeFailure (s : State) : Bool := s.log.isEmpty

/-- What every step keeps: memory in canonical form, and an injective opcode table (00_scope.md R5). -/
def State.Inv (s : State) : Prop := s.mem.wf = true ∧ s.config.wf = true

/-- The bytes stand in memory from an address on, addresses taken mod 65536 (30_encoding.md R80). -/
def codeAt (m : Memory) : Nat → List Byte → Bool
  | _, [] => true
  | addr, b :: bs => (m.read (addr % 65536) == b) && codeAt m (addr + 1) bs

/-- The three bytes from PC on, which hold the next instruction (30_encoding.md R80). -/
def State.codeBytes (s : State) : List Byte :=
  [s.mem.read s.pc.toNat, s.mem.read (s.pc + 1).toNat, s.mem.read (s.pc + 2).toNat]

/-- The name of the instruction at PC: the row of the opcode table whose byte stands there (30_encoding.md R81). -/
def State.nextOpcode (s : State) : Option Opcode := s.config.lookup (s.mem.read s.pc.toNat)

/-- The state in which an instruction's rule starts to run: the opcode byte was fetched, "so PC already points at the
first operand byte and cyc is already 1" (41_load_store.md, head; 40_engine_and_addressing.md R100). -/
def State.afterOpcodeFetch (s : State) : State := { s with pc := s.pc + 1, cyc := 1, signal := none }

/-! ### The addressing modes in numbers (40_engine_and_addressing.md R111 to R118) -/

/-- The word at an address: low byte first, the second byte at the next address mod 65536 (20_memory.md R54, R59). -/
def wordAt (s : State) (addr : Nat) : Nat :=
  (s.mem.read (addr % 65536)).toNat + 256 * (s.mem.read ((addr + 1) % 65536)).toNat

def eaZp (b : Byte) : Nat := b.toNat
def eaZpx (s : State) (b : Byte) : Nat := (b.toNat + s.x.toNat) % 256
def eaAb (w : Word) : Nat := w.toNat
def eaAbx (s : State) (w : Word) : Nat := (w.toNat + s.x.toNat) % 65536
def eaAby (s : State) (w : Word) : Nat := (w.toNat + s.y.toNat) % 65536
def eaIzx (s : State) (b : Byte) : Nat := wordAt s ((b.toNat + s.x.toNat) % 256)
def eaIzy (s : State) (b : Byte) : Nat := (wordAt s b.toNat + s.y.toNat) % 65536

/-- The page-cross cycle: 1 when the high byte of the sum, taken mod 65536, differs from that of the base (R108). -/
def crossCycle (base i : Nat) : Nat := if (base + i) % 65536 / 256 = base / 256 then 0 else 1

/-- What a mode and the data access after it come to: the effective address, the operand bytes PC moves past, and the
cycles beyond the opcode fetch (R102, R111 to R117, R123). -/
structure ModeRow where
  ea    : Nat
  bytes : Nat
  cyc   : Nat
deriving DecidableEq, Repr

/-- The seven modes that yield an address, in the order ZP, ZPX, AB, ABX, ABY, IZX, IZY, for a zero-page operand `b` or
an absolute operand `w`. -/
def modeRows (s : State) (b : Byte) (w : Word) : List ModeRow :=
  [⟨eaZp b, 1, 2⟩, ⟨eaZpx s b, 1, 3⟩, ⟨eaAb w, 2, 3⟩, ⟨eaAbx s w, 2, 3 + crossCycle w.toNat s.x.toNat⟩,
   ⟨eaAby s w, 2, 3 + crossCycle w.toNat s.y.toNat⟩, ⟨eaIzx s b, 1, 5⟩,
   ⟨eaIzy s b, 1, 4 + crossCycle (wordAt s b.toNat) s.y.toNat⟩]

/-- The same for the read-modify-write modes ZP, ZPX, AB, ABX of the extension (47_alu_extension.md R207). -/
def rmwRows (s : State) (b : Byte) (w : Word) : List ModeRow :=
  [⟨eaZp b, 1, 4⟩, ⟨eaZpx s b, 1, 5⟩, ⟨eaAb w, 2, 5⟩, ⟨eaAbx s w, 2, 6⟩]

/-- The flags after a byte was loaded or computed: Z and N from it, the rest kept (R109). -/
def zn (v : Byte) (f : Flags) : Flags := { f with z := decide (v.toNat = 0), n := decide (128 ≤ v.toNat) }

/-- A shift's result `r` (taken mod 256) and the bit `c` that it moves into Carry; Z and N from the result, V kept
(47_alu_extension.md R205). -/
def shifted (r c : Nat) (f : Flags) : Byte × Flags :=
  let v : Byte := BitVec.ofNat 8 r
  (v, { zn v f with c := decide (c = 1) })

/-- The four shifts in numbers (47_alu_extension.md R205). -/
def aslNum (v : Byte) (f : Flags) : Byte × Flags := shifted (2 * v.toNat) (v.toNat / 128) f
def lsrNum (v : Byte) (f : Flags) : Byte × Flags := shifted (v.toNat / 2) (v.toNat % 2) f
def rolNum (v : Byte) (f : Flags) : Byte × Flags := shifted (2 * v.toNat + f.c.toNat) (v.toNat / 128) f
def rorNum (v : Byte) (f : Flags) : Byte × Flags := shifted (v.toNat / 2 + 128 * f.c.toNat) (v.toNat % 2) f

/-- The total of a step in cycles: the table of 40_engine_and_addressing.md R123, and 47_alu_extension.md R207 for the
extension. -/
def cycleTotal (s : State) : Instr → Nat
  | .ldaIm _ | .adcIm _ | .sbcIm _ | .andIm _ | .oraIm _ | .eorIm _ => 2
  | .ldaZp _ | .staZp _ | .adcZp _ | .sbcZp _ | .andZp _ | .oraZp _ | .eorZp _ => 3
  | .ldaZpx _ | .staZpx _ | .adcZpx _ | .sbcZpx _ | .andZpx _ | .oraZpx _ | .eorZpx _ => 4
  | .ldaAb _ | .staAb _ | .adcAb _ | .sbcAb _ | .andAb _ | .oraAb _ | .eorAb _ => 4
  | .ldaAbx w | .staAbx w | .adcAbx w | .sbcAbx w | .andAbx w | .oraAbx w | .eorAbx w =>
    4 + crossCycle w.toNat s.x.toNat
  | .ldaAby w | .staAby w | .adcAby w | .sbcAby w | .andAby w | .oraAby w | .eorAby w =>
    4 + crossCycle w.toNat s.y.toNat
  | .ldaIzx _ | .staIzx _ | .adcIzx _ | .sbcIzx _ | .andIzx _ | .oraIzx _ | .eorIzx _ => 6
  | .ldaIzy b | .staIzy b | .adcIzy b | .sbcIzy b | .andIzy b | .oraIzy b | .eorIzy b =>
    5 + crossCycle (wordAt s b.toNat) s.y.toNat
  | .jmpAb _ => 3
  | .jmpIn _ => 5
  | .jsrAb _ => 6
  | .rts => 6
  | .aslAcc | .lsrAcc | .rolAcc | .rorAcc => 2
  | .aslZp _ | .lsrZp _ | .rolZp _ | .rorZp _ => 5
  | .aslZpx _ | .lsrZpx _ | .rolZpx _ | .rorZpx _ => 6
  | .aslAb _ | .lsrAb _ | .rolAb _ | .rorAb _ => 6
  | .aslAbx _ | .lsrAbx _ | .rolAbx _ | .rorAbx _ => 7

end Sys2Proof.Machine

namespace Sys2Proof

/-! ### Which instructions touch what (10_state.md R32; 47_alu_extension.md R206) -/

/-- The instructions that load PC instead of going on in sequence (10_state.md R21, R32). -/
def Opcode.loadsPc : Opcode → Bool
  | .jmpAb | .jmpIn | .jsrAb | .rts => true
  | _ => false

/-- The instructions that write memory (10_state.md R32; 47_alu_extension.md R206). -/
def Opcode.storesToMemory : Opcode → Bool
  | .staZp | .staZpx | .staAb | .staAbx | .staAby | .staIzx | .staIzy | .jsrAb => true
  | .aslZp | .aslZpx | .aslAb | .aslAbx | .lsrZp | .lsrZpx | .lsrAb | .lsrAbx => true
  | .rolZp | .rolZpx | .rolAb | .rolAbx | .rorZp | .rorZpx | .rorAb | .rorAbx => true
  | _ => false

/-- The loads of A (41_load_store.md R140 to R147). -/
def Opcode.isLda : Opcode → Bool
  | .ldaIm | .ldaZp | .ldaZpx | .ldaAb | .ldaAbx | .ldaAby | .ldaIzx | .ldaIzy => true
  | _ => false

end Sys2Proof
end

