-- ==== Sys2Proof/Certificates/Slice0/Obligations.lean ====
section
/-! DEFINITION. The statements about the model, one `def Obligations.<Name> : Prop` each. Where a docstring names a log
entry or a decision D<n> of 92_eei_decisions.md, the statement rests on that choice and is derived. -/

open Sys2Proof Sys2Proof.Machine

/-! ### Reset -/

/-- 10_state.md R33, R34, 70_reset_and_hazards.md R320, R321: what both resets set, that the light reset leaves every cell
and the full reset clears every cell. That neither costs a cycle is decision D21 (log 16), said of `cyc`, the model's own
field (log 7). -/
def Obligations.ResetCommandsSetAndKeep : Prop :=
  ∀ s : State,
    (∀ t ∈ [lightReset s, fullReset s],
      t.pc = 0xFFFC ∧ t.sp = 0 ∧ t.a = 0 ∧ t.x = 0 ∧ t.y = 0 ∧ t.flags.sequence = List.replicate 7 false ∧
      t.cyc = s.cyc) ∧
    (∀ p : Word, (lightReset s).mem.read p.toNat = s.mem.read p.toNat) ∧
    (∀ p : Word, (fullReset s).mem.read p.toNat = 0)

/-- 70_reset_and_hazards.md R322 and 10_state.md R33: the resets are idempotent, they differ in memory only, and the full
reset of any state is the model's reset state but for the parameters and the outputs of earlier steps (log 1, 7, 16). -/
def Obligations.ResetsAreIdempotentAndReachReset : Prop :=
  ∀ s : State,
    lightReset (lightReset s) = lightReset s ∧ fullReset (fullReset s) = fullReset s ∧
    fullReset (lightReset s) = fullReset s ∧ lightReset (fullReset s) = fullReset s ∧
    lightReset s = { fullReset s with mem := s.mem } ∧
    fullReset s = { State.reset with config := s.config, cyc := s.cyc, signal := s.signal, log := s.log }

/-- 70_reset_and_hazards.md R323 with the default opcode bytes (D4, log 3): the first step after a full reset is a decode
failure of the byte 0x00 at 0xFFFC. -/
def Obligations.FirstStepAfterFullResetIsDecodeFailure : Prop :=
  ∀ s : State, s.config.opc = [] →
    step (fullReset s) = .next { fullReset s with
      pc := 0xFFFD, cyc := 1, signal := some ⟨0x00, 0xFFFC⟩, log := ⟨0x00, 0xFFFC⟩ :: s.log }

/-- 10_state.md R35, 70_reset_and_hazards.md R324 (D14, log 15): before the first reset the registers and flags are
whatever they are, and every cell is 0x00. -/
def Obligations.CreatedMachineHasZeroMemory : Prop :=
  ∀ (a x y sp : Byte) (pc : Word) (f : Flags) (c : Config) (p : Word),
    let s := State.created a x y sp pc f c
    s.mem.read p.toNat = 0 ∧ s.a = a ∧ s.x = x ∧ s.y = y ∧ s.sp = sp ∧ s.pc = pc ∧ s.flags = f ∧ s.config = c

/-! ### Flags and datapath -/

/-- 40_engine_and_addressing.md R109: SetLoadFlags in full, its three cases, that Z and N are never both true, that it
costs no cycle and changes nothing else, and that every LDA sets Z and N by it from the new A. -/
def Obligations.SetLoadFlagsWritesOnlyZAndN : Prop :=
  ∀ (v : Byte) (s : State) (b : Byte) (w : Word),
    (setLoadFlags v s = { s with
      flags := { s.flags with z := decide (v.toNat = 0), n := decide (128 ≤ v.toNat) } }) ∧
    (v = 0 → (setLoadFlags v s).flags.z = true ∧ (setLoadFlags v s).flags.n = false) ∧
    (1 ≤ v.toNat → v.toNat ≤ 0x7F → (setLoadFlags v s).flags.z = false ∧ (setLoadFlags v s).flags.n = false) ∧
    (0x80 ≤ v.toNat → (setLoadFlags v s).flags.z = false ∧ (setLoadFlags v s).flags.n = true) ∧
    ((setLoadFlags v s).flags.z && (setLoadFlags v s).flags.n) = false ∧
    ∀ i ∈ [Instr.ldaIm b, .ldaZp b, .ldaZpx b, .ldaAb w, .ldaAbx w, .ldaAby w, .ldaIzx b, .ldaIzy b],
      ∃ t, exec i s = .next t ∧ t.flags = (setLoadFlags t.a s).flags

/-- 41_load_store.md R148: after every LDA, Z and N are those of the new A, the old A, Z and N do not influence the
result, and no cell is written. -/
def Obligations.LdaSetsFlagsFromNewA : Prop :=
  ∀ (s : State) (b : Byte) (w : Word),
    ∀ i ∈ [Instr.ldaIm b, .ldaZp b, .ldaZpx b, .ldaAb w, .ldaAbx w, .ldaAby w, .ldaIzx b, .ldaIzy b],
      ∃ t, exec i s = .next t ∧ t.flags.z = decide (t.a = 0) ∧ t.flags.n = t.a.getLsbD 7 ∧
        (∀ p : Word, t.mem.read p.toNat = s.mem.read p.toNat) ∧
        ∀ (a' : Byte) (z' n' : Bool),
          exec i { s with a := a', flags := { s.flags with z := z', n := n' } } = .next t

/-- 40_engine_and_addressing.md R105, R106: the two index additions, where they are used, and that no carry reaches the
flags. -/
def Obligations.IndexAdditionsWrap : Prop :=
  ∀ (b i : Byte) (w : Word) (s : State),
    (add8 b i).toNat = (b.toNat + i.toNat) % 256 ∧
    (add16 w i).toNat = (w.toNat + i.toNat) % 65536 ∧
    (addrZPX b s).1 = zext16 (add8 b s.x) ∧
    (addrIZX b s).1 = (memRead2 (zext16 (add8 b s.x)) s).1 ∧
    (addrABX w s).1 = add16 w s.x ∧
    (addrABY w s).1 = add16 w s.y ∧
    (addrIZY b s).1 = add16 (memRead2 (zext16 b) s).1 s.y ∧
    ∀ t ∈ [(addrZPX b s).2, (addrIZX b s).2, (addrABX w s).2, (addrABY w s).2, (addrIZY b s).2], t.flags = s.flags

/-- 40_engine_and_addressing.md R108 on the wrapped sum (D18, log 12): a page is crossed exactly when the low bytes
carry; with index 0 never. -/
def Obligations.PageCrossIffLowByteCarries : Prop :=
  ∀ (base : Word) (i : Byte),
    pageCross base (add16 base i) = decide (256 ≤ base.toNat % 256 + i.toNat) ∧
    pageCross base (add16 base 0) = false

/-! ### Memory primitives -/

/-- 20_memory.md R52, R53: a byte read answers the cell and changes only the cycle count, a byte write sets that cell and
changes nothing else; each costs 1 cycle. -/
def Obligations.ByteAccessReadsAndWritesOneCell : Prop :=
  ∀ (s : State) (p : Word) (v : Byte),
    memRead1 p s = (s.mem.read p.toNat, { s with cyc := s.cyc + 1 }) ∧
    memWrite1 p v s = { s with mem := (memWrite1 p v s).mem, cyc := s.cyc + 1 } ∧
    (∀ q : Word, q ≠ p → (memWrite1 p v s).mem.read q.toNat = s.mem.read q.toNat) ∧
    (s.mem.wf = true → (memWrite1 p v s).mem.read p.toNat = v)

/-- 20_memory.md R54, R55, R59 (little-endian by D3, second byte mod 65536 by D10; log 5, 10): where a word write puts its
two bytes, that it changes no other cell, and that the word is read back, for every address. -/
def Obligations.WordWriteThenReadReturnsWord : Prop :=
  ∀ (s : State) (p w : Word), s.mem.wf = true →
    let t := memWrite2 p w s
    (t.mem.read p.toNat).toNat = w.toNat % 256 ∧
    (t.mem.read ((p.toNat + 1) % 65536)).toNat = w.toNat / 256 ∧
    (∀ q : Word, q ≠ p → q ≠ p + 1 → t.mem.read q.toNat = s.mem.read q.toNat) ∧
    t = { s with mem := t.mem, cyc := s.cyc + 2 } ∧
    memRead2 p t = (w, { t with cyc := s.cyc + 4 })

/-- 20_memory.md R56, R57: the fetch primitives; that the opcode byte is fetched by the first of them; that the operand
the decoder is given is what they read; and that the operand forms which take the decoder's value have their effect. -/
def Obligations.FetchPrimitivesAdvancePc : Prop :=
  ∀ s : State,
    fetchByte s = (s.mem.read s.pc.toNat, { s with pc := s.pc + 1, cyc := s.cyc + 1 }) ∧
    (fetchWord s).1.toNat = wordAt s s.pc.toNat ∧
    (fetchWord s).2 = { s with pc := s.pc + 2, cyc := s.cyc + 2 } ∧
    (s.pc + 1).toNat = (s.pc.toNat + 1) % 65536 ∧ (s.pc + 2).toNat = (s.pc.toNat + 2) % 65536 ∧
    (∀ b, b = (fetchByte s).1 → operandByte b s = fetchByte s) ∧
    (∀ w, w = (fetchWord s).1 → operandWord w s = fetchWord s) ∧
    operandWindow s = [(fetchByte s).1, (fetchByte (fetchByte s).2).1] ∧
    operandWindow s = [lo (fetchWord s).1, hi (fetchWord s).1] ∧
    (∀ i rest, decode s.config ((fetchByte (beginStep s)).1 :: operandWindow (fetchByte (beginStep s)).2) = .instr i rest →
      step s = exec i (fetchByte (beginStep s)).2)

/-- 20_memory.md R58 (D8, D10, log 8, 10): the stack grows upward from 0x0100 + SP, SP moves by 2 mod 256, and a word
pulled after a push is the word pushed. -/
def Obligations.PullAfterPushReturnsWord : Prop :=
  ∀ (s : State) (w : Word), s.mem.wf = true →
    let t := pushWord w s
    t.sp.toNat = (s.sp.toNat + 2) % 256 ∧
    (t.mem.read (256 + s.sp.toNat)).toNat = w.toNat % 256 ∧
    (t.mem.read (257 + s.sp.toNat)).toNat = w.toNat / 256 ∧
    pullWord t = (w, { s with mem := t.mem, cyc := s.cyc + 4 })

/-! ### Addressing modes -/

/-- 40_engine_and_addressing.md R110, R111, R113: immediate, zero page and absolute fetch their operand, and give it as
the data byte or the address, at costs 1, 1 and 2. -/
def Obligations.DirectModesFetchTheirOperand : Prop :=
  ∀ s : State,
    operandIM (fetchByte s).1 s = ((fetchByte s).1, { s with pc := s.pc + 1, cyc := s.cyc + 1 }) ∧
    (addrZP (fetchByte s).1 s).1.toNat = (fetchByte s).1.toNat ∧
    (addrZP (fetchByte s).1 s).2 = { s with pc := s.pc + 1, cyc := s.cyc + 1 } ∧
    addrAB (fetchWord s).1 s = ((fetchWord s).1, { s with pc := s.pc + 2, cyc := s.cyc + 2 })

/-- 40_engine_and_addressing.md R112, R114 to R118, 47_alu_extension.md R207 (index-add cycle D9, page cross D18, second
pointer byte D10; log 9, 10, 12, 17): the address each indexed or indirect mode gives, what it costs, and that it changes
nothing else. -/
def Obligations.IndexedModesGiveAddressAndCost : Prop :=
  ∀ (s : State) (b : Byte) (w : Word),
    (addrZPX b s).1.toNat = eaZpx s b ∧
    (addrZPX b s).2 = { s with pc := s.pc + 1, cyc := s.cyc + 2 } ∧
    (addrABX w s).1.toNat = eaAbx s w ∧
    (addrABX w s).2 = { s with pc := s.pc + 2, cyc := s.cyc + 2 + crossCycle w.toNat s.x.toNat } ∧
    (addrABY w s).1.toNat = eaAby s w ∧
    (addrABY w s).2 = { s with pc := s.pc + 2, cyc := s.cyc + 2 + crossCycle w.toNat s.y.toNat } ∧
    (addrIZX b s).1.toNat = eaIzx s b ∧
    (addrIZX b s).2 = { s with pc := s.pc + 1, cyc := s.cyc + 4 } ∧
    (addrIZY b s).1.toNat = eaIzy s b ∧
    (addrIZY b s).2 =
      { s with pc := s.pc + 1, cyc := s.cyc + 3 + crossCycle (wordAt s b.toNat) s.y.toNat } ∧
    (addrIN w s).1.toNat = wordAt s w.toNat ∧
    (addrIN w s).2 = { s with pc := s.pc + 2, cyc := s.cyc + 4 } ∧
    (addrABXrmw w s).1.toNat = eaAbx s w ∧
    (addrABXrmw w s).2 = { s with pc := s.pc + 2, cyc := s.cyc + 3 }

/-! ### Encoding -/

/-- 30_encoding.md R80 to R84, R87: under every injective OPC, decoding the encoding of a well-formed instruction gives it
back with every operand, and leaves the bytes after it. -/
def Obligations.DecodeOfEncodeIsTheInstruction : Prop :=
  ∀ (c : Config) (i : Instr) (rest : List Byte), c.wf = true → i.wf c = true →
    decode c (encode c i ++ rest) = .instr i rest

/-- 30_encoding.md R80 to R84: whatever bytes decode to an instruction are its encoding, as long as its format says, and
the instruction is well-formed; so an instruction has one encoding. -/
def Obligations.DecodedBytesAreTheEncoding : Prop :=
  ∀ (c : Config) (i : Instr) (bytes rest : List Byte), decode c bytes = .instr i rest →
    bytes = encode c i ++ rest ∧ (encode c i).length = i.length ∧ i.wf c = true

/-- 30_encoding.md R86, 47_alu_extension.md R200: three bytes are rejected exactly when the first is the byte of no enabled
row, and then under the name unrecognised. -/
def Obligations.DecodeRejectsExactlyUnlistedBytes : Prop :=
  ∀ (c : Config) (op b1 b2 : Byte) (rest : List Byte),
    ((∃ r, decode c (op :: b1 :: b2 :: rest) = .reject r) ↔
      ∀ n, c.enables n = true → c.opcodeByte n ≠ op) ∧
    ∀ r, decode c (op :: b1 :: b2 :: rest) = .reject r → r = .unrecognised op

/-- 30_encoding.md R84, R86, 47_alu_extension.md R280 with the default bytes (D4, D6, log 3): 19 rows, or 79 with EXT_ALU,
no two of the same byte, and 237 or 177 unrecognised byte values. -/
def Obligations.DefaultTablesAreInjective : Prop :=
  ({} : Config).wf = true ∧ Config.tableConfig.wf = true ∧
  ({} : Config).table.length = 19 ∧ Config.tableConfig.table.length = 79 ∧
  ((List.range 256).filter fun k => (({} : Config).lookup (BitVec.ofNat 8 k)).isNone).length = 237 ∧
  ((List.range 256).filter fun k => (Config.tableConfig.lookup (BitVec.ofNat 8 k)).isNone).length = 177

/-- 30_encoding.md R89 and 47_alu_extension.md R280: words written out from the tables decode to what they stand for
(default bytes: D4, log 3). -/
def Obligations.WrittenWordsDecode : Prop :=
  decode Config.tableConfig [0xA9, 0x42] = .instr (.ldaIm 0x42) [] ∧
  decode Config.tableConfig [0xBD, 0x34, 0x12] = .instr (.ldaAbx 0x1234) [] ∧
  decode Config.tableConfig [0x91, 0x40] = .instr (.staIzy 0x40) [] ∧
  decode Config.tableConfig [0x6C, 0x00, 0x03] = .instr (.jmpIn 0x0300) [] ∧
  decode Config.tableConfig [0x20, 0x03, 0x02] = .instr (.jsrAb 0x0203) [] ∧
  decode Config.tableConfig [0x60] = .instr .rts [] ∧
  decode Config.tableConfig [0x75, 0xF0] = .instr (.adcZpx 0xF0) [] ∧
  decode Config.tableConfig [0xED, 0x34, 0x12] = .instr (.sbcAb 0x1234) [] ∧
  decode Config.tableConfig [0x59, 0x00, 0x12] = .instr (.eorAby 0x1200) [] ∧
  decode Config.tableConfig [0x7E, 0xF0, 0x12] = .instr (.rorAbx 0x12F0) [] ∧
  decode {} [0x69, 0x50] = .reject (.unrecognised 0x69)

/-! ### The instruction step -/

/-- 40_engine_and_addressing.md R100: a step runs the instruction that the bytes at PC decode to, in the state that the
opcode fetch leaves (PC one further, 1 cycle, nothing signalled). -/
def Obligations.StepRunsTheDecodedInstruction : Prop :=
  ∀ (s : State) (i : Instr) (rest : List Byte), decode s.config s.codeBytes = .instr i rest →
    step s = exec i s.afterOpcodeFetch

/-- 40_engine_and_addressing.md R100, 30_encoding.md R80, R81: where the encoding of a well-formed instruction stands at
PC, wherever that is, a step runs that instruction. -/
def Obligations.StepRunsTheEncodedInstruction : Prop :=
  ∀ (s : State) (i : Instr), s.config.wf = true → i.wf s.config = true →
    codeAt s.mem s.pc.toNat (encode s.config i) = true → step s = exec i s.afterOpcodeFetch

/-- 60_exceptions.md R300, R301, R305 (PC advance and cost D7, log 6): the whole effect of an unlisted opcode byte. -/
def Obligations.UnlistedByteIsDecodeFailure : Prop :=
  ∀ s : State,
    (∀ n, s.config.enables n = true → s.config.opcodeByte n ≠ s.mem.read s.pc.toNat) →
    ∃ t, step s = .next t ∧ t.outcome = .unhandled (s.mem.read s.pc.toNat) s.pc 1 ∧
      t = { s with
        pc := s.pc + 1, cyc := 1, signal := some ⟨s.mem.read s.pc.toNat, s.pc⟩,
        log := ⟨s.mem.read s.pc.toNat, s.pc⟩ :: s.log }

/-- 00_scope.md R9: every step ends as Done with at least 2 cycles, or as Unhandled with 1 cycle at a byte that is in no
row of the table; there is no third outcome, no fault and no refusal. R9 gives the 2 cycles for the normative instructions;
for the extension they rest on 40_engine_and_addressing.md R120, 47_alu_extension.md R207 and D22 (PRESUMED, log 17). -/
def Obligations.EveryStepIsDoneOrUnhandled : Prop :=
  ∀ s : State, ∃ t, step s = .next t ∧
    ((∃ n cyc, s.nextOpcode = some n ∧ t.outcome = .done cyc ∧ 2 ≤ cyc) ∨
     (s.nextOpcode = none ∧ t.outcome = .unhandled (s.mem.read s.pc.toNat) s.pc 1))

/-- 40_engine_and_addressing.md R102, R123 and 47_alu_extension.md R207 (D8, D9, D18, D22; log 8, 9, 12, 17): every
instruction costs exactly its total, which is 2 to 7 cycles, at most 6 without the extension. -/
def Obligations.StepCostsTheTableTotal : Prop :=
  ∀ (s : State) (i : Instr) (rest : List Byte), decode s.config s.codeBytes = .instr i rest →
    (∃ t, step s = .next t ∧ t.outcome = .done (cycleTotal s i)) ∧
    2 ≤ cycleTotal s i ∧ cycleTotal s i ≤ 7 ∧ (s.config.extAlu = false → cycleTotal s i ≤ 6)

/-! ### Loads and stores -/

/-- 41_load_store.md R140 to R147 (cycles of the modes: D9, D18; log 9, 12): the whole effect of LDA in each mode, after
the opcode fetch. -/
def Obligations.LdaEffects : Prop :=
  ∀ (s : State) (b : Byte) (w : Word),
    exec (.ldaIm b) s = .next { s with a := b, flags := zn b s.flags, pc := s.pc + 1, cyc := s.cyc + 1 } ∧
    ∀ r ∈ List.zip [Instr.ldaZp b, .ldaZpx b, .ldaAb w, .ldaAbx w, .ldaAby w, .ldaIzx b, .ldaIzy b] (modeRows s b w),
      exec r.1 s = .next { s with
        a := s.mem.read r.2.ea, flags := zn (s.mem.read r.2.ea) s.flags,
        pc := s.pc + BitVec.ofNat 16 r.2.bytes, cyc := s.cyc + r.2.cyc }

/-- 41_load_store.md R150 to R156 (cycles of the modes: D9, D18; log 9, 12): the whole effect of STA in each mode, after
the opcode fetch. -/
def Obligations.StaEffects : Prop :=
  ∀ (s : State) (b : Byte) (w : Word),
    ∀ r ∈ List.zip [Instr.staZp b, .staZpx b, .staAb w, .staAbx w, .staAby w, .staIzx b, .staIzy b] (modeRows s b w),
      exec r.1 s = .next { s with
        mem := s.mem.write r.2.ea s.a, pc := s.pc + BitVec.ofNat 16 r.2.bytes, cyc := s.cyc + r.2.cyc }

/-- 41_load_store.md R149: STA reads A and keeps it, writes no flag, writes exactly the byte at the address that its mode
gives before the write, and costs and advances PC as LDA in the same mode; nothing else changes. -/
def Obligations.StaWritesExactlyOneByte : Prop :=
  ∀ (s : State) (b : Byte) (w : Word),
    ∀ r ∈ [(Instr.staZp b, Instr.ldaZp b, (addrZP b s).1), (.staZpx b, .ldaZpx b, (addrZPX b s).1),
           (.staAb w, .ldaAb w, (addrAB w s).1), (.staAbx w, .ldaAbx w, (addrABX w s).1),
           (.staAby w, .ldaAby w, (addrABY w s).1), (.staIzx b, .ldaIzx b, (addrIZX b s).1),
           (.staIzy b, .ldaIzy b, (addrIZY b s).1)],
      ∃ t u, exec r.1 s = .next t ∧ exec r.2.1 s = .next u ∧ t.cyc = u.cyc ∧ t.pc = u.pc ∧
        t = { s with mem := t.mem, pc := t.pc, cyc := t.cyc } ∧
        (∀ q : Word, q ≠ r.2.2 → t.mem.read q.toNat = s.mem.read q.toNat) ∧
        (s.mem.wf = true → t.mem.read r.2.2.toNat = s.a)

/-- 20_memory.md R68 (the spec derives it from R50 and R62): a store to the byte after the instruction is what the next
opcode fetch reads. -/
def Obligations.StoreIsSeenByTheNextFetch : Prop :=
  ∀ (s : State) (b : Byte) (w : Word), s.mem.wf = true →
    ∀ r ∈ [(Instr.staZp b, (addrZP b s).1), (.staZpx b, (addrZPX b s).1), (.staAb w, (addrAB w s).1),
           (.staAbx w, (addrABX w s).1), (.staAby w, (addrABY w s).1), (.staIzx b, (addrIZX b s).1),
           (.staIzy b, (addrIZY b s).1)],
      ∃ t, exec r.1 s = .next t ∧ (r.2 = t.pc → (fetchByte t).1 = s.a)

/-! ### Control transfer -/

/-- 42_jump_subroutine.md R160, R161 (second pointer byte D10, log 10): JMP loads PC and changes nothing else. -/
def Obligations.JmpEffects : Prop :=
  ∀ (s : State) (w : Word),
    exec (.jmpAb w) s = .next { s with pc := w, cyc := s.cyc + 2 } ∧
    exec (.jmpIn w) s = .next { s with pc := BitVec.ofNat 16 (wordAt s w.toNat), cyc := s.cyc + 4 }

/-- 42_jump_subroutine.md R162 (JSR_INTERNAL by D8, byte order by D3; log 5, 8, 10): JSR stores the address of its last byte,
low byte at 0x0100 + SP and high byte at the next address, moves SP up by 2 and loads PC; every other cell reads as
before. -/
def Obligations.JsrEffects : Prop :=
  ∀ (s : State) (w : Word), ∃ t, exec (.jsrAb w) s = .next t ∧
    t = { s with mem := t.mem, sp := s.sp + 2, pc := w, cyc := s.cyc + 5 } ∧
    (∀ q : Word, q ≠ stackAddr s.sp → q ≠ stackAddr s.sp + 1 → t.mem.read q.toNat = s.mem.read q.toNat) ∧
    (s.mem.wf = true →
      (t.mem.read (256 + s.sp.toNat)).toNat = (s.pc.toNat + 1) % 65536 % 256 ∧
      (t.mem.read (257 + s.sp.toNat)).toNat = (s.pc.toNat + 1) % 65536 / 256)

/-- 42_jump_subroutine.md R163 (RTS_INTERNAL by D8; log 8, 10): RTS moves SP down by 2, loads PC with the word there plus
1, and changes nothing else. -/
def Obligations.RtsEffects : Prop :=
  ∀ s : State,
    exec .rts s = .next { s with
      sp := s.sp - 2, pc := BitVec.ofNat 16 (wordAt s (256 + (s.sp - 2).toNat) + 1), cyc := s.cyc + 5 }

/-- 42_jump_subroutine.md R164 (the spec derives its exact form): after a JSR, an RTS in any state with the SP the JSR left
and the two stack cells it wrote comes back to the byte after the JSR's operand (its opcode address + 3), with SP as
before the JSR. -/
def Obligations.RtsReturnsBehindTheJsr : Prop :=
  ∀ (s : State) (w : Word), s.mem.wf = true → ∃ t, exec (.jsrAb w) s = .next t ∧
    ∀ u : State, u.sp = t.sp →
      u.mem.read (256 + s.sp.toNat) = t.mem.read (256 + s.sp.toNat) →
      u.mem.read (257 + s.sp.toNat) = t.mem.read (257 + s.sp.toNat) →
      exec .rts u = .next { u with sp := s.sp, pc := s.pc + 2, cyc := u.cyc + 5 }

/-! ### The ALU extension (all of it the spec's general knowledge: GK3, log 17) -/

/-- 47_alu_extension.md R202, R203, R206, R220 to R235: the whole effect of ADC and SBC in each mode, after the opcode
fetch. -/
def Obligations.AdcSbcEffects : Prop :=
  ∀ (s : State) (b : Byte) (w : Word),
    exec (.adcIm b) s = .next { s with
      a := (adcFn s.a b s.flags).1, flags := (adcFn s.a b s.flags).2, pc := s.pc + 1, cyc := s.cyc + 1 } ∧
    exec (.sbcIm b) s = .next { s with
      a := (sbcFn s.a b s.flags).1, flags := (sbcFn s.a b s.flags).2, pc := s.pc + 1, cyc := s.cyc + 1 } ∧
    ∀ q ∈ [(adcFn, [Instr.adcZp b, .adcZpx b, .adcAb w, .adcAbx w, .adcAby w, .adcIzx b, .adcIzy b]),
           (sbcFn, [Instr.sbcZp b, .sbcZpx b, .sbcAb w, .sbcAbx w, .sbcAby w, .sbcIzx b, .sbcIzy b])],
      ∀ r ∈ List.zip q.2 (modeRows s b w),
        exec r.1 s = .next { s with
          a := (q.1 s.a (s.mem.read r.2.ea) s.flags).1, flags := (q.1 s.a (s.mem.read r.2.ea) s.flags).2,
          pc := s.pc + BitVec.ofNat 16 r.2.bytes, cyc := s.cyc + r.2.cyc }

/-- 47_alu_extension.md R202: ADC's result and Carry are the 9-bit sum, V is the signed overflow, Z and N are those of the
result, I, D and B are kept. -/
def Obligations.AdcIsBinaryAdditionWithSignedOverflow : Prop :=
  ∀ (a m : Byte) (f : Flags),
    let r := adcFn a m f
    let exact : Int := a.toInt + m.toInt + f.c.toNat
    r.1.toNat + 256 * r.2.c.toNat = a.toNat + m.toNat + f.c.toNat ∧
    (r.2.v = true ↔ exact < -128 ∨ 127 < exact) ∧
    (r.2.v = false → r.1.toInt = exact) ∧
    r.2 = { zn r.1 f with c := r.2.c, v := r.2.v }

/-- 47_alu_extension.md R203: SBC's result is the difference mod 256, Carry is set exactly when there is no borrow, V is
the signed overflow, Z and N are those of the result, I, D and B are kept. -/
def Obligations.SbcIsSubtractionWithBorrow : Prop :=
  ∀ (a m : Byte) (f : Flags),
    let r := sbcFn a m f
    let borrow : Int := 1 - f.c.toNat
    let exact : Int := a.toInt - m.toInt - borrow
    (r.1.toNat : Int) = (a.toNat - m.toNat - borrow) % 256 ∧
    (r.2.c = true ↔ 0 ≤ (a.toNat : Int) - m.toNat - borrow) ∧
    (r.2.v = true ↔ exact < -128 ∨ 127 < exact) ∧
    (r.2.v = false → r.1.toInt = exact) ∧
    r.2 = { zn r.1 f with c := r.2.c, v := r.2.v }

/-- 47_alu_extension.md R204, R206, R236 to R259: the whole effect of AND, ORA and EOR in each mode, after the opcode
fetch; C, V and the other flags are kept. -/
def Obligations.LogicEffects : Prop :=
  ∀ (s : State) (b : Byte) (w : Word),
    (∀ q ∈ [(Instr.andIm b, s.a &&& b), (.oraIm b, s.a ||| b), (.eorIm b, s.a ^^^ b)],
      exec q.1 s = .next { s with a := q.2, flags := zn q.2 s.flags, pc := s.pc + 1, cyc := s.cyc + 1 }) ∧
    ∀ q ∈ [((fun x y : Byte => x &&& y),
              [Instr.andZp b, .andZpx b, .andAb w, .andAbx w, .andAby w, .andIzx b, .andIzy b]),
           ((fun x y : Byte => x ||| y),
              [Instr.oraZp b, .oraZpx b, .oraAb w, .oraAbx w, .oraAby w, .oraIzx b, .oraIzy b]),
           ((fun x y : Byte => x ^^^ y),
              [Instr.eorZp b, .eorZpx b, .eorAb w, .eorAbx w, .eorAby w, .eorIzx b, .eorIzy b])],
      ∀ r ∈ List.zip q.2 (modeRows s b w),
        exec r.1 s = .next { s with
          a := q.1 s.a (s.mem.read r.2.ea), flags := zn (q.1 s.a (s.mem.read r.2.ea)) s.flags,
          pc := s.pc + BitVec.ofNat 16 r.2.bytes, cyc := s.cyc + r.2.cyc }

/-- 47_alu_extension.md R205, R207, R260, R265, R270, R275: the shifts of the accumulator in numbers; they change A, C, Z,
N and the cycle count and nothing else. -/
def Obligations.AccumulatorShiftEffects : Prop :=
  ∀ s : State,
    ∀ r ∈ [(Instr.aslAcc, aslNum s.a s.flags), (.lsrAcc, lsrNum s.a s.flags), (.rolAcc, rolNum s.a s.flags),
           (.rorAcc, rorNum s.a s.flags)],
      exec r.1 s = .next { s with a := r.2.1, flags := r.2.2, cyc := s.cyc + 1 }

/-- 47_alu_extension.md R205 to R207, R261 to R264, R266 to R269, R271 to R274, R276 to R279: the shifts of a memory byte
in numbers; A is not touched. -/
def Obligations.MemoryShiftEffects : Prop :=
  ∀ (s : State) (b : Byte) (w : Word),
    ∀ q ∈ [(aslNum, [Instr.aslZp b, .aslZpx b, .aslAb w, .aslAbx w]),
           (lsrNum, [Instr.lsrZp b, .lsrZpx b, .lsrAb w, .lsrAbx w]),
           (rolNum, [Instr.rolZp b, .rolZpx b, .rolAb w, .rolAbx w]),
           (rorNum, [Instr.rorZp b, .rorZpx b, .rorAb w, .rorAbx w])],
      ∀ r ∈ List.zip q.2 (rmwRows s b w),
        exec r.1 s = .next { s with
          mem := s.mem.write r.2.ea (q.1 (s.mem.read r.2.ea) s.flags).1,
          flags := (q.1 (s.mem.read r.2.ea) s.flags).2,
          pc := s.pc + BitVec.ofNat 16 r.2.bytes, cyc := s.cyc + r.2.cyc }

/-- 47_alu_extension.md R201, R206: the frame of the shifts of a memory byte: exactly the byte at the address that the mode
gives is written, V, I, D, B and every register but PC are kept. -/
def Obligations.MemoryShiftWritesExactlyOneByte : Prop :=
  ∀ (s : State) (b : Byte) (w : Word),
    ∀ r ∈ [(Instr.aslZp b, (addrZP b s).1), (.aslZpx b, (addrZPX b s).1), (.aslAb w, (addrAB w s).1),
           (.aslAbx w, (addrABXrmw w s).1), (.lsrZp b, (addrZP b s).1), (.lsrZpx b, (addrZPX b s).1),
           (.lsrAb w, (addrAB w s).1), (.lsrAbx w, (addrABXrmw w s).1), (.rolZp b, (addrZP b s).1),
           (.rolZpx b, (addrZPX b s).1), (.rolAb w, (addrAB w s).1), (.rolAbx w, (addrABXrmw w s).1),
           (.rorZp b, (addrZP b s).1), (.rorZpx b, (addrZPX b s).1), (.rorAb w, (addrAB w s).1),
           (.rorAbx w, (addrABXrmw w s).1)],
      ∃ t, exec r.1 s = .next t ∧
        t = { s with
          mem := t.mem, pc := t.pc, cyc := t.cyc,
          flags := { s.flags with c := t.flags.c, z := t.flags.z, n := t.flags.n } } ∧
        (∀ q : Word, q ≠ r.2 → t.mem.read q.toNat = s.mem.read q.toNat) ∧
        (s.mem.wf = true → t.flags.z = decide (t.mem.read r.2.toNat = 0) ∧ t.flags.n = (t.mem.read r.2.toNat).msb)

/-- 47_alu_extension.md R205: ROL and ROR are a 9-bit rotation, so each undoes the other on the byte and Carry. -/
def Obligations.RotatesUndoEachOther : Prop :=
  ∀ (v : Byte) (f : Flags),
    (rorFn (rolFn v f).1 (rolFn v f).2).1 = v ∧ (rorFn (rolFn v f).1 (rolFn v f).2).2.c = f.c ∧
    (rolFn (rorFn v f).1 (rorFn v f).2).1 = v ∧ (rolFn (rorFn v f).1 (rorFn v f).2).2.c = f.c

/-! ### Rules over all instructions -/

/-- 10_state.md R20, R27, 47_alu_extension.md R201, 10_state.md R31(b): no step writes X, Y, I, D, B or a parameter. -/
def Obligations.StepKeepsIndexRegistersAndUnusedFlags : Prop :=
  ∀ s t : State, step s = .next t →
    t.x = s.x ∧ t.y = s.y ∧ t.flags.i = s.flags.i ∧ t.flags.d = s.flags.d ∧ t.flags.b = s.flags.b ∧
    t.config = s.config

/-- 10_state.md R27, R32 for the normative machine (EXT_ALU false, D6): no step writes C or V, and only LDA writes A, Z
or N. -/
def Obligations.NormativeStepWritesAAndFlagsOnlyByLda : Prop :=
  ∀ s t : State, s.config.extAlu = false → step s = .next t →
    t.flags.c = s.flags.c ∧ t.flags.v = s.flags.v ∧
    ((∀ n, s.nextOpcode = some n → n.isLda = false) → t.a = s.a ∧ t.flags = s.flags)

/-- 10_state.md R23, 90_conflicts.md C7: SP is moved only by JSR, up by 2, and by RTS, down by 2, so no step changes whether
SP is odd. -/
def Obligations.SpMovesOnlyByJsrAndRts : Prop :=
  ∀ s t : State, step s = .next t →
    (t.sp = s.sp ∨ (s.nextOpcode = some .jsrAb ∧ t.sp = s.sp + 2) ∨ (s.nextOpcode = some .rts ∧ t.sp = s.sp - 2)) ∧
    t.sp.toNat % 2 = s.sp.toNat % 2

/-- 10_state.md R32, 47_alu_extension.md R206: a step of an instruction that stores nothing, or of an unlisted byte,
changes no cell. -/
def Obligations.StepsThatStoreNothingKeepMemory : Prop :=
  ∀ s t : State, step s = .next t → (∀ n, s.nextOpcode = some n → n.storesToMemory = false) →
    ∀ p : Word, t.mem.read p.toNat = s.mem.read p.toNat

/-- 10_state.md R21, R22, 47_alu_extension.md R201: PC goes on by the instruction's length, mod 65536, unless the
instruction loads PC. -/
def Obligations.PcGoesOnInSequence : Prop :=
  ∀ (s t : State) (n : Opcode), s.nextOpcode = some n → n.loadsPc = false → step s = .next t →
    t.pc.toNat = (s.pc.toNat + n.length) % 65536

/-- 10_state.md R30, 00_scope.md R5 (the model's canonical form of memory, log 18): every step keeps the invariant, from
every state that meets it. -/
def Obligations.StepKeepsTheInvariant : Prop :=
  ∀ s t : State, s.Inv → step s = .next t → t.Inv

/-- The reset state meets the invariant (log 18). -/
def Obligations.ResetMeetsTheInvariant : Prop := State.reset.Inv

/-- 10_state.md R31, 40_engine_and_addressing.md R100, R101 (the outputs are the model's own fields, log 4, 7): the outputs
of earlier steps and the status layout do not influence what a step does, and a step adds exactly its own signal to the
log. -/
def Obligations.OutputsDoNotInfluenceTheStep : Prop :=
  ∀ (s t : State) (cyc : Nat) (signal : Option DecodeFailure) (log : List DecodeFailure) (layout : StatusLayout),
    step s = .next t →
    t.log = t.signal.toList ++ s.log ∧
    step { s with cyc := cyc, signal := signal, log := log, config := { s.config with statusLayout := layout } } =
      .next { t with log := t.signal.toList ++ log, config := { s.config with statusLayout := layout } }

/-! ### Run and the host's commands -/

/-- 40_engine_and_addressing.md R121 (loop test and budget type D12, log 13): Run is the while loop of the rule: a positive
budget makes one step and goes on with what is left, any other budget is answered at once. -/
def Obligations.RunIsTheWhileLoop : Prop :=
  ∀ (n : Int) (s : State),
    (n ≤ 0 → run n s = .next (n, s)) ∧
    (0 < n → ∃ t, step s = .next t ∧ run n s = run (n - t.cyc) t)

/-- 40_engine_and_addressing.md R121, R122 (D12, log 13): Run ends after at most `n` steps, with a remainder of at most 0
and, since the last step started above 0, at least -6, or -5 without EXT_ALU. -/
def Obligations.RunTerminatesWithSmallOverspend : Prop :=
  ∀ (n : Int) (s : State), 0 < n →
    (∀ k : Nat, n ≤ k → runFor k n s = run n s) ∧
    ∃ r t, run n s = .next (r, t) ∧ r ≤ 0 ∧ -6 ≤ r ∧ (s.config.extAlu = false → -5 ≤ r)

/-- 10_state.md R25, R36 (packed layout D2, log 4): the debug view in its fixed order, independent of the layout, and the
packed status byte bit by bit in both layouts. -/
def Obligations.DebugViewAndStatusByte : Prop :=
  ∀ (s : State) (layout : StatusLayout) (p : Word),
    let t : State := { s with config := { s.config with statusLayout := layout } }
    let f := s.flags
    t.debugView.axy = (s.a, s.x, s.y) ∧ t.debugView.pc = s.pc ∧ t.debugView.sp = s.sp ∧
    t.debugView.flags = [f.c, f.z, f.i, f.d, f.b, f.v, f.n] ∧
    peek p t = s.mem.read p.toNat ∧
    (List.range 8).map t.statusByte.getLsbD =
      match layout with
      | .v5n6 => [f.c, f.z, f.i, f.d, f.b, f.v, f.n, false]
      | .v6n7 => [f.c, f.z, f.i, f.d, f.b, false, f.v, f.n]

/-- 20_memory.md R70, 10_state.md R37 (D15, log 16): what injection and presets change, at no cycle. -/
def Obligations.HostWritesChangeOnlyTheirTarget : Prop :=
  ∀ (s : State) (p w : Word) (v : Byte) (f : Flags),
    (∃ t, command (.inject p v) s = .next t ∧ t = { s with mem := t.mem } ∧
      (∀ q : Word, q ≠ p → t.mem.read q.toNat = s.mem.read q.toNat) ∧
      (s.mem.wf = true → t.mem.read p.toNat = v ∧ t.mem.wf = true)) ∧
    command (.presetA v) s = .next { s with a := v } ∧ command (.presetX v) s = .next { s with x := v } ∧
    command (.presetY v) s = .next { s with y := v } ∧ command (.presetSP v) s = .next { s with sp := v } ∧
    command (.presetPC w) s = .next { s with pc := w } ∧ command (.presetFlags f) s = .next { s with flags := f }

/-- 60_exceptions.md R302, R311: every command of the host completes, from every state; none meets a fault or a refusal. -/
def Obligations.EveryHostCommandCompletes : Prop :=
  ∀ (cmd : HostCommand) (s : State), ∃ t, command cmd s = .next t
end

