-- ==== Sys2Proof/Laws/Decode.lean ====
section
/-! SUPPORT. Bytes and words, the opcode table, and the decoder's two stages. -/

namespace Sys2Proof

@[simp] theorem lo_mkWord (h l : Byte) : lo (mkWord h l) = l := by
  apply BitVec.eq_of_toNat_eq
  simp only [lo, mkWord, BitVec.toNat_ofNat]
  omega

@[simp] theorem hi_mkWord (h l : Byte) : hi (mkWord h l) = h := by
  apply BitVec.eq_of_toNat_eq
  simp only [hi, mkWord, BitVec.toNat_ofNat]
  omega

@[simp] theorem mkWord_hi_lo (w : Word) : mkWord (hi w) (lo w) = w := by
  apply BitVec.eq_of_toNat_eq
  simp only [hi, lo, mkWord, BitVec.toNat_ofNat]
  omega

theorem mkWord_toNat (h l : Byte) : (mkWord h l).toNat = h.toNat * 256 + l.toNat := by
  simp only [mkWord, BitVec.toNat_ofNat]
  omega

theorem Opcode.mem_all (n : Opcode) : n ∈ Opcode.all := by
  cases n <;> decide

/-- What the table lookup answers is enabled and has the byte. -/
theorem Config.lookup_some {c : Config} {op : Byte} {n : Opcode} (h : c.lookup op = some n) :
    c.enables n = true ∧ c.opcodeByte n = op := by
  have := List.find?_some h
  simpa using this

/-- The lookup answers none exactly for a byte of no enabled row. -/
theorem Config.lookup_eq_none {c : Config} {op : Byte} :
    c.lookup op = none ↔ ∀ n, c.enables n = true → c.opcodeByte n ≠ op := by
  simp only [Config.lookup, List.find?_eq_none, Bool.and_eq_true, beq_iff_eq, not_and]
  exact ⟨fun h n => h n (Opcode.mem_all n), fun h n _ => h n⟩

/-- Under an injective table, two enabled names of the same byte are the same. -/
theorem Config.opcodeByte_injective {c : Config} (hc : c.wf = true) {m n : Opcode} (hm : c.enables m = true)
    (hn : c.enables n = true) (h : c.opcodeByte m = c.opcodeByte n) : m = n := by
  have hnd : (c.table.map c.opcodeByte).Nodup := of_decide_eq_true hc
  exact List.inj_on_of_nodup_map hnd (List.mem_filter.2 ⟨Opcode.mem_all m, hm⟩)
    (List.mem_filter.2 ⟨Opcode.mem_all n, hn⟩) h

/-- Under an injective table, the byte of an enabled name is looked up to that name. -/
theorem Config.lookup_opcodeByte {c : Config} (hc : c.wf = true) {n : Opcode} (hn : c.enables n = true) :
    c.lookup (c.opcodeByte n) = some n := by
  cases h : c.lookup (c.opcodeByte n) with
  | none => exact absurd rfl (Config.lookup_eq_none.1 h n hn)
  | some m =>
    obtain ⟨hm, hb⟩ := Config.lookup_some h
    rw [Config.opcodeByte_injective hc hm hn hb]

/-- The table without `EXT_ALU` is part of the table with it. -/
theorem Config.enables_normative (c : Config) {n : Opcode} (h : n.isExtension = false) : c.enables n = true := by
  simp [Config.enables, h]

/-- The decoder on a list that starts with an opcode byte. -/
theorem decode_cons (c : Config) (op : Byte) (bytes : List Byte) :
    decode c (op :: bytes) = match c.lookup op with
      | some n => decodeOperand op n bytes
      | none   => .reject (.unrecognised op) := rfl

/-- Two operand bytes are enough for every format. -/
theorem decodeOperand_two (op : Byte) (n : Opcode) (p q : Byte) (rest : List Byte) :
    ∃ i tail, decodeOperand op n (p :: q :: rest) = .instr i tail ∧ i.opcode = n := by
  cases n <;> exact ⟨_, _, rfl, rfl⟩

/-- A two-byte operand, low byte first, is assembled to the word it came from (30_encoding.md R83). -/
theorem decodeOperand_word {n : Opcode} (hf : n.format = .f3) (op : Byte) (w : Word) (rest : List Byte) :
    decodeOperand op n ([lo w, hi w] ++ rest) = .instr (n.instr 0 w) rest := by
  simp only [decodeOperand, hf, List.cons_append, List.nil_append, mkWord_hi_lo]

end Sys2Proof
end

