-- ==== Sys2Proof/Laws/Memory.lean ====
section
/-! SUPPORT. The laws of the memory array: read after write, and that a write keeps the canonical form. -/

namespace Sys2Proof.Machine

@[simp] theorem Memory.read_nil (addr : Nat) : Memory.read [] addr = 0 := rfl

@[simp] theorem Memory.wf_nil : Memory.wf [] = true := rfl

theorem Memory.wfFrom_mono {m : Memory} {low low' : Nat} (h : low' ≤ low) (hm : Memory.wfFrom low m = true) :
    Memory.wfFrom low' m = true := by
  cases m with
  | nil => rfl
  | cons c m =>
    simp only [Memory.wfFrom, Bool.and_eq_true, decide_eq_true_eq] at hm ⊢
    exact ⟨⟨⟨by omega, hm.1.1.2⟩, hm.1.2⟩, hm.2⟩

theorem Memory.read_below {m : Memory} {low addr : Nat} (hm : Memory.wfFrom low m = true) (h : addr < low) :
    Memory.read m addr = 0 := by
  induction m generalizing low with
  | nil => rfl
  | cons c m ih =>
    simp only [Memory.wfFrom, Bool.and_eq_true, decide_eq_true_eq] at hm
    have hne : c.1 ≠ addr := by omega
    simp only [Memory.read, hne, if_false]
    exact ih hm.2 (by omega)

theorem Memory.read_write_ne (m : Memory) {addr other : Nat} (v : Byte) (h : other ≠ addr) :
    Memory.read (Memory.write m addr v) other = Memory.read m other := by
  induction m with
  | nil =>
    simp only [Memory.write]
    split <;> simp [Memory.read, h.symm, Config.unlistedByte]
  | cons c m ih =>
    simp only [Memory.write]
    split
    · split <;> simp [Memory.read, h.symm]
    · split
      · rename_i he
        have hne : c.1 ≠ other := he ▸ h.symm
        split <;> simp [Memory.read, hne, h.symm]
      · simp only [Memory.read, ih]

theorem Memory.read_write_same_from {m : Memory} {low : Nat} (hm : Memory.wfFrom low m = true) (addr : Nat) (v : Byte) :
    Memory.read (Memory.write m addr v) addr = v := by
  induction m generalizing low with
  | nil =>
    simp only [Memory.write]
    split <;> simp_all [Memory.read, Config.unlistedByte]
  | cons c m ih =>
    simp only [Memory.wfFrom, Bool.and_eq_true, decide_eq_true_eq] at hm
    simp only [Memory.write]
    split
    · rename_i hlt
      split
      · rename_i hv
        have hne : c.1 ≠ addr := by omega
        simp only [Memory.read, hne, if_false, Memory.read_below hm.2 (by omega : addr < c.1 + 1)]
        exact hv.symm
      · simp [Memory.read]
    · split
      · rename_i he
        split
        · rename_i hv
          rw [Memory.read_below hm.2 (by omega : addr < c.1 + 1)]
          exact hv.symm
        · simp [Memory.read]
      · rename_i hne
        have : c.1 ≠ addr := fun h => hne h.symm
        simp only [Memory.read, this, if_false]
        exact ih hm.2

/-- Read after write at the same address. -/
theorem Memory.read_write_same {m : Memory} (hm : m.wf = true) (addr : Nat) (v : Byte) :
    Memory.read (Memory.write m addr v) addr = v := Memory.read_write_same_from hm addr v

theorem Memory.wfFrom_write {m : Memory} {low addr : Nat} (hm : Memory.wfFrom low m = true) (hlow : low ≤ addr)
    (ha : addr < Config.memSize) (v : Byte) : Memory.wfFrom low (Memory.write m addr v) = true := by
  induction m generalizing low with
  | nil =>
    simp only [Memory.write]
    split <;> simp_all [Memory.wfFrom]
  | cons c m ih =>
    have hm' := hm
    simp only [Memory.wfFrom, Bool.and_eq_true, decide_eq_true_eq] at hm
    obtain ⟨⟨⟨hlk, hk⟩, hz⟩, ht⟩ := hm
    simp only [Memory.write]
    split
    · split
      · exact hm'
      · simp_all [Memory.wfFrom]
    · split
      · split
        · exact Memory.wfFrom_mono (by omega) ht
        · rename_i he hv
          subst he
          simp_all [Memory.wfFrom]
      · have := ih ht (by omega : c.1 + 1 ≤ addr)
        simp_all [Memory.wfFrom]

/-- A write keeps the canonical form. -/
theorem Memory.wf_write {m : Memory} (hm : m.wf = true) {addr : Nat} (ha : addr < Config.memSize) (v : Byte) :
    (Memory.write m addr v).wf = true := Memory.wfFrom_write hm (Nat.zero_le _) ha v

/-- A write through a 16-bit address keeps the canonical form. -/
theorem Memory.wf_write_word {m : Memory} (hm : m.wf = true) (addr : Word) (v : Byte) :
    (Memory.write m addr.toNat v).wf = true := Memory.wf_write hm addr.isLt v

/-- Read after write, both cases at once. -/
theorem Memory.read_write {m : Memory} (hm : m.wf = true) (addr other : Nat) (v : Byte) :
    Memory.read (Memory.write m addr v) other = if other = addr then v else Memory.read m other := by
  split
  · rename_i h
    exact h ▸ Memory.read_write_same hm addr v
  · rename_i h
    exact Memory.read_write_ne m v h

end Sys2Proof.Machine
end

