-- ==== Sys2Proof/Laws/State.lean ====
section
/-! SUPPORT. One lemma per field per update of the state, true by rfl. -/

namespace Sys2Proof.Machine

@[simp] theorem State.setA_a (v : Byte) (s : State) : (s.setA v).a = v := rfl
@[simp] theorem State.setA_x (v : Byte) (s : State) : (s.setA v).x = s.x := rfl
@[simp] theorem State.setA_y (v : Byte) (s : State) : (s.setA v).y = s.y := rfl
@[simp] theorem State.setA_sp (v : Byte) (s : State) : (s.setA v).sp = s.sp := rfl
@[simp] theorem State.setA_pc (v : Byte) (s : State) : (s.setA v).pc = s.pc := rfl
@[simp] theorem State.setA_flags (v : Byte) (s : State) : (s.setA v).flags = s.flags := rfl
@[simp] theorem State.setA_mem (v : Byte) (s : State) : (s.setA v).mem = s.mem := rfl
@[simp] theorem State.setA_config (v : Byte) (s : State) : (s.setA v).config = s.config := rfl
@[simp] theorem State.setA_cyc (v : Byte) (s : State) : (s.setA v).cyc = s.cyc := rfl
@[simp] theorem State.setA_signal (v : Byte) (s : State) : (s.setA v).signal = s.signal := rfl
@[simp] theorem State.setA_log (v : Byte) (s : State) : (s.setA v).log = s.log := rfl

@[simp] theorem State.setX_a (v : Byte) (s : State) : (s.setX v).a = s.a := rfl
@[simp] theorem State.setX_x (v : Byte) (s : State) : (s.setX v).x = v := rfl
@[simp] theorem State.setX_y (v : Byte) (s : State) : (s.setX v).y = s.y := rfl
@[simp] theorem State.setX_sp (v : Byte) (s : State) : (s.setX v).sp = s.sp := rfl
@[simp] theorem State.setX_pc (v : Byte) (s : State) : (s.setX v).pc = s.pc := rfl
@[simp] theorem State.setX_flags (v : Byte) (s : State) : (s.setX v).flags = s.flags := rfl
@[simp] theorem State.setX_mem (v : Byte) (s : State) : (s.setX v).mem = s.mem := rfl
@[simp] theorem State.setX_config (v : Byte) (s : State) : (s.setX v).config = s.config := rfl
@[simp] theorem State.setX_cyc (v : Byte) (s : State) : (s.setX v).cyc = s.cyc := rfl
@[simp] theorem State.setX_signal (v : Byte) (s : State) : (s.setX v).signal = s.signal := rfl
@[simp] theorem State.setX_log (v : Byte) (s : State) : (s.setX v).log = s.log := rfl

@[simp] theorem State.setY_a (v : Byte) (s : State) : (s.setY v).a = s.a := rfl
@[simp] theorem State.setY_x (v : Byte) (s : State) : (s.setY v).x = s.x := rfl
@[simp] theorem State.setY_y (v : Byte) (s : State) : (s.setY v).y = v := rfl
@[simp] theorem State.setY_sp (v : Byte) (s : State) : (s.setY v).sp = s.sp := rfl
@[simp] theorem State.setY_pc (v : Byte) (s : State) : (s.setY v).pc = s.pc := rfl
@[simp] theorem State.setY_flags (v : Byte) (s : State) : (s.setY v).flags = s.flags := rfl
@[simp] theorem State.setY_mem (v : Byte) (s : State) : (s.setY v).mem = s.mem := rfl
@[simp] theorem State.setY_config (v : Byte) (s : State) : (s.setY v).config = s.config := rfl
@[simp] theorem State.setY_cyc (v : Byte) (s : State) : (s.setY v).cyc = s.cyc := rfl
@[simp] theorem State.setY_signal (v : Byte) (s : State) : (s.setY v).signal = s.signal := rfl
@[simp] theorem State.setY_log (v : Byte) (s : State) : (s.setY v).log = s.log := rfl

@[simp] theorem State.setSP_a (v : Byte) (s : State) : (s.setSP v).a = s.a := rfl
@[simp] theorem State.setSP_x (v : Byte) (s : State) : (s.setSP v).x = s.x := rfl
@[simp] theorem State.setSP_y (v : Byte) (s : State) : (s.setSP v).y = s.y := rfl
@[simp] theorem State.setSP_sp (v : Byte) (s : State) : (s.setSP v).sp = v := rfl
@[simp] theorem State.setSP_pc (v : Byte) (s : State) : (s.setSP v).pc = s.pc := rfl
@[simp] theorem State.setSP_flags (v : Byte) (s : State) : (s.setSP v).flags = s.flags := rfl
@[simp] theorem State.setSP_mem (v : Byte) (s : State) : (s.setSP v).mem = s.mem := rfl
@[simp] theorem State.setSP_config (v : Byte) (s : State) : (s.setSP v).config = s.config := rfl
@[simp] theorem State.setSP_cyc (v : Byte) (s : State) : (s.setSP v).cyc = s.cyc := rfl
@[simp] theorem State.setSP_signal (v : Byte) (s : State) : (s.setSP v).signal = s.signal := rfl
@[simp] theorem State.setSP_log (v : Byte) (s : State) : (s.setSP v).log = s.log := rfl

@[simp] theorem State.setPC_a (w : Word) (s : State) : (s.setPC w).a = s.a := rfl
@[simp] theorem State.setPC_x (w : Word) (s : State) : (s.setPC w).x = s.x := rfl
@[simp] theorem State.setPC_y (w : Word) (s : State) : (s.setPC w).y = s.y := rfl
@[simp] theorem State.setPC_sp (w : Word) (s : State) : (s.setPC w).sp = s.sp := rfl
@[simp] theorem State.setPC_pc (w : Word) (s : State) : (s.setPC w).pc = w := rfl
@[simp] theorem State.setPC_flags (w : Word) (s : State) : (s.setPC w).flags = s.flags := rfl
@[simp] theorem State.setPC_mem (w : Word) (s : State) : (s.setPC w).mem = s.mem := rfl
@[simp] theorem State.setPC_config (w : Word) (s : State) : (s.setPC w).config = s.config := rfl
@[simp] theorem State.setPC_cyc (w : Word) (s : State) : (s.setPC w).cyc = s.cyc := rfl
@[simp] theorem State.setPC_signal (w : Word) (s : State) : (s.setPC w).signal = s.signal := rfl
@[simp] theorem State.setPC_log (w : Word) (s : State) : (s.setPC w).log = s.log := rfl

@[simp] theorem State.setFlags_a (f : Flags) (s : State) : (s.setFlags f).a = s.a := rfl
@[simp] theorem State.setFlags_x (f : Flags) (s : State) : (s.setFlags f).x = s.x := rfl
@[simp] theorem State.setFlags_y (f : Flags) (s : State) : (s.setFlags f).y = s.y := rfl
@[simp] theorem State.setFlags_sp (f : Flags) (s : State) : (s.setFlags f).sp = s.sp := rfl
@[simp] theorem State.setFlags_pc (f : Flags) (s : State) : (s.setFlags f).pc = s.pc := rfl
@[simp] theorem State.setFlags_flags (f : Flags) (s : State) : (s.setFlags f).flags = f := rfl
@[simp] theorem State.setFlags_mem (f : Flags) (s : State) : (s.setFlags f).mem = s.mem := rfl
@[simp] theorem State.setFlags_config (f : Flags) (s : State) : (s.setFlags f).config = s.config := rfl
@[simp] theorem State.setFlags_cyc (f : Flags) (s : State) : (s.setFlags f).cyc = s.cyc := rfl
@[simp] theorem State.setFlags_signal (f : Flags) (s : State) : (s.setFlags f).signal = s.signal := rfl
@[simp] theorem State.setFlags_log (f : Flags) (s : State) : (s.setFlags f).log = s.log := rfl

@[simp] theorem State.setMem_a (m : Memory) (s : State) : (s.setMem m).a = s.a := rfl
@[simp] theorem State.setMem_x (m : Memory) (s : State) : (s.setMem m).x = s.x := rfl
@[simp] theorem State.setMem_y (m : Memory) (s : State) : (s.setMem m).y = s.y := rfl
@[simp] theorem State.setMem_sp (m : Memory) (s : State) : (s.setMem m).sp = s.sp := rfl
@[simp] theorem State.setMem_pc (m : Memory) (s : State) : (s.setMem m).pc = s.pc := rfl
@[simp] theorem State.setMem_flags (m : Memory) (s : State) : (s.setMem m).flags = s.flags := rfl
@[simp] theorem State.setMem_mem (m : Memory) (s : State) : (s.setMem m).mem = m := rfl
@[simp] theorem State.setMem_config (m : Memory) (s : State) : (s.setMem m).config = s.config := rfl
@[simp] theorem State.setMem_cyc (m : Memory) (s : State) : (s.setMem m).cyc = s.cyc := rfl
@[simp] theorem State.setMem_signal (m : Memory) (s : State) : (s.setMem m).signal = s.signal := rfl
@[simp] theorem State.setMem_log (m : Memory) (s : State) : (s.setMem m).log = s.log := rfl

@[simp] theorem internal_a (k : Nat) (s : State) : (internal k s).a = s.a := rfl
@[simp] theorem internal_x (k : Nat) (s : State) : (internal k s).x = s.x := rfl
@[simp] theorem internal_y (k : Nat) (s : State) : (internal k s).y = s.y := rfl
@[simp] theorem internal_sp (k : Nat) (s : State) : (internal k s).sp = s.sp := rfl
@[simp] theorem internal_pc (k : Nat) (s : State) : (internal k s).pc = s.pc := rfl
@[simp] theorem internal_flags (k : Nat) (s : State) : (internal k s).flags = s.flags := rfl
@[simp] theorem internal_mem (k : Nat) (s : State) : (internal k s).mem = s.mem := rfl
@[simp] theorem internal_config (k : Nat) (s : State) : (internal k s).config = s.config := rfl
@[simp] theorem internal_cyc (k : Nat) (s : State) : (internal k s).cyc = s.cyc + k := rfl
@[simp] theorem internal_signal (k : Nat) (s : State) : (internal k s).signal = s.signal := rfl
@[simp] theorem internal_log (k : Nat) (s : State) : (internal k s).log = s.log := rfl

@[simp] theorem beginStep_a (s : State) : (beginStep s).a = s.a := rfl
@[simp] theorem beginStep_x (s : State) : (beginStep s).x = s.x := rfl
@[simp] theorem beginStep_y (s : State) : (beginStep s).y = s.y := rfl
@[simp] theorem beginStep_sp (s : State) : (beginStep s).sp = s.sp := rfl
@[simp] theorem beginStep_pc (s : State) : (beginStep s).pc = s.pc := rfl
@[simp] theorem beginStep_flags (s : State) : (beginStep s).flags = s.flags := rfl
@[simp] theorem beginStep_mem (s : State) : (beginStep s).mem = s.mem := rfl
@[simp] theorem beginStep_config (s : State) : (beginStep s).config = s.config := rfl
@[simp] theorem beginStep_cyc (s : State) : (beginStep s).cyc = 0 := rfl
@[simp] theorem beginStep_signal (s : State) : (beginStep s).signal = none := rfl
@[simp] theorem beginStep_log (s : State) : (beginStep s).log = s.log := rfl

@[simp] theorem takeDecodeFailure_a (op : Byte) (p : Word) (s : State) :
    (takeDecodeFailure op p s).a = s.a := rfl
@[simp] theorem takeDecodeFailure_x (op : Byte) (p : Word) (s : State) :
    (takeDecodeFailure op p s).x = s.x := rfl
@[simp] theorem takeDecodeFailure_y (op : Byte) (p : Word) (s : State) :
    (takeDecodeFailure op p s).y = s.y := rfl
@[simp] theorem takeDecodeFailure_sp (op : Byte) (p : Word) (s : State) :
    (takeDecodeFailure op p s).sp = s.sp := rfl
@[simp] theorem takeDecodeFailure_pc (op : Byte) (p : Word) (s : State) :
    (takeDecodeFailure op p s).pc = s.pc := rfl
@[simp] theorem takeDecodeFailure_flags (op : Byte) (p : Word) (s : State) :
    (takeDecodeFailure op p s).flags = s.flags := rfl
@[simp] theorem takeDecodeFailure_mem (op : Byte) (p : Word) (s : State) :
    (takeDecodeFailure op p s).mem = s.mem := rfl
@[simp] theorem takeDecodeFailure_config (op : Byte) (p : Word) (s : State) :
    (takeDecodeFailure op p s).config = s.config := rfl
@[simp] theorem takeDecodeFailure_cyc (op : Byte) (p : Word) (s : State) :
    (takeDecodeFailure op p s).cyc = s.cyc := rfl
@[simp] theorem takeDecodeFailure_signal (op : Byte) (p : Word) (s : State) :
    (takeDecodeFailure op p s).signal = some ⟨op, p⟩ := rfl
@[simp] theorem takeDecodeFailure_log (op : Byte) (p : Word) (s : State) :
    (takeDecodeFailure op p s).log = ⟨op, p⟩ :: s.log := rfl

@[simp] theorem setLoadFlags_a (v : Byte) (s : State) : (setLoadFlags v s).a = s.a := rfl
@[simp] theorem setLoadFlags_x (v : Byte) (s : State) : (setLoadFlags v s).x = s.x := rfl
@[simp] theorem setLoadFlags_y (v : Byte) (s : State) : (setLoadFlags v s).y = s.y := rfl
@[simp] theorem setLoadFlags_sp (v : Byte) (s : State) : (setLoadFlags v s).sp = s.sp := rfl
@[simp] theorem setLoadFlags_pc (v : Byte) (s : State) : (setLoadFlags v s).pc = s.pc := rfl
@[simp] theorem setLoadFlags_flags (v : Byte) (s : State) : (setLoadFlags v s).flags = s.flags.setZN v := rfl
@[simp] theorem setLoadFlags_mem (v : Byte) (s : State) : (setLoadFlags v s).mem = s.mem := rfl
@[simp] theorem setLoadFlags_config (v : Byte) (s : State) : (setLoadFlags v s).config = s.config := rfl
@[simp] theorem setLoadFlags_cyc (v : Byte) (s : State) : (setLoadFlags v s).cyc = s.cyc := rfl
@[simp] theorem setLoadFlags_signal (v : Byte) (s : State) : (setLoadFlags v s).signal = s.signal := rfl
@[simp] theorem setLoadFlags_log (v : Byte) (s : State) : (setLoadFlags v s).log = s.log := rfl

@[simp] theorem Flags.setZN_c (r : Byte) (f : Flags) : (f.setZN r).c = f.c := rfl
@[simp] theorem Flags.setZN_z (r : Byte) (f : Flags) : (f.setZN r).z = (r == 0) := rfl
@[simp] theorem Flags.setZN_i (r : Byte) (f : Flags) : (f.setZN r).i = f.i := rfl
@[simp] theorem Flags.setZN_d (r : Byte) (f : Flags) : (f.setZN r).d = f.d := rfl
@[simp] theorem Flags.setZN_b (r : Byte) (f : Flags) : (f.setZN r).b = f.b := rfl
@[simp] theorem Flags.setZN_v (r : Byte) (f : Flags) : (f.setZN r).v = f.v := rfl
@[simp] theorem Flags.setZN_n (r : Byte) (f : Flags) : (f.setZN r).n = r.msb := rfl

@[simp] theorem lightReset_a (s : State) : (lightReset s).a = 0 := rfl
@[simp] theorem lightReset_x (s : State) : (lightReset s).x = 0 := rfl
@[simp] theorem lightReset_y (s : State) : (lightReset s).y = 0 := rfl
@[simp] theorem lightReset_sp (s : State) : (lightReset s).sp = 0 := rfl
@[simp] theorem lightReset_pc (s : State) : (lightReset s).pc = 0xFFFC := rfl
@[simp] theorem lightReset_flags (s : State) : (lightReset s).flags = Flags.cleared := rfl
@[simp] theorem lightReset_mem (s : State) : (lightReset s).mem = s.mem := rfl
@[simp] theorem lightReset_config (s : State) : (lightReset s).config = s.config := rfl
@[simp] theorem lightReset_cyc (s : State) : (lightReset s).cyc = s.cyc := rfl
@[simp] theorem lightReset_signal (s : State) : (lightReset s).signal = s.signal := rfl
@[simp] theorem lightReset_log (s : State) : (lightReset s).log = s.log := rfl

@[simp] theorem fullReset_a (s : State) : (fullReset s).a = 0 := rfl
@[simp] theorem fullReset_x (s : State) : (fullReset s).x = 0 := rfl
@[simp] theorem fullReset_y (s : State) : (fullReset s).y = 0 := rfl
@[simp] theorem fullReset_sp (s : State) : (fullReset s).sp = 0 := rfl
@[simp] theorem fullReset_pc (s : State) : (fullReset s).pc = 0xFFFC := rfl
@[simp] theorem fullReset_flags (s : State) : (fullReset s).flags = Flags.cleared := rfl
@[simp] theorem fullReset_mem (s : State) : (fullReset s).mem = [] := rfl
@[simp] theorem fullReset_config (s : State) : (fullReset s).config = s.config := rfl
@[simp] theorem fullReset_cyc (s : State) : (fullReset s).cyc = s.cyc := rfl
@[simp] theorem fullReset_signal (s : State) : (fullReset s).signal = s.signal := rfl
@[simp] theorem fullReset_log (s : State) : (fullReset s).log = s.log := rfl

end Sys2Proof.Machine
end

