-- ==== Sys2Proof/Laws/Ops.lean ====
section
/-! SUPPORT. One lemma per shared operation: the value it gives and the state it leaves, and the datapath arithmetic in
numbers. -/

namespace Sys2Proof.Machine

/-! ### Datapath arithmetic in numbers -/

@[simp] theorem zext16_toNat (b : Byte) : (zext16 b).toNat = b.toNat := by
  simp only [zext16, BitVec.toNat_ofNat]
  omega

theorem add8_toNat (b i : Byte) : (add8 b i).toNat = (b.toNat + i.toNat) % 256 := BitVec.toNat_add b i

theorem add16_toNat (w : Word) (i : Byte) : (add16 w i).toNat = (w.toNat + i.toNat) % 65536 := by
  rw [add16, BitVec.toNat_add, zext16_toNat]

theorem inc16_toNat (w : Word) : (inc16 w).toNat = (w.toNat + 1) % 65536 := BitVec.toNat_add w 1

theorem lo_toNat (w : Word) : (lo w).toNat = w.toNat % 256 := by
  simp only [lo, BitVec.toNat_ofNat]

theorem hi_toNat (w : Word) : (hi w).toNat = w.toNat / 256 := by
  simp only [hi, BitVec.toNat_ofNat]
  omega

theorem inc16_ne (w : Word) : inc16 w ≠ w := by
  intro h
  have := congrArg BitVec.toNat h
  rw [inc16_toNat] at this
  omega

theorem inc16_toNat_ne (w : Word) : (inc16 w).toNat ≠ w.toNat := fun h => inc16_ne w (BitVec.eq_of_toNat_eq h)

theorem pageCross_eq (base ea : Word) : pageCross base ea = decide (base.toNat / 256 ≠ ea.toNat / 256) := by
  rw [pageCross, Bool.eq_iff_iff, bne_iff_ne, decide_eq_true_eq, ne_eq, ne_eq, ← hi_toNat, ← hi_toNat,
    BitVec.toNat_inj]

/-! ### Memory primitives -/

theorem memRead1_eq (p : Word) (s : State) : memRead1 p s = (s.mem.read p.toNat, { s with cyc := s.cyc + 1 }) := rfl

theorem memWrite1_eq (p : Word) (v : Byte) (s : State) :
    memWrite1 p v s = { s with mem := s.mem.write p.toNat v, cyc := s.cyc + 1 } := rfl

theorem memRead2_eq (p : Word) (s : State) :
    memRead2 p s = (mkWord (s.mem.read (inc16 p).toNat) (s.mem.read p.toNat), { s with cyc := s.cyc + 2 }) := rfl

theorem memWrite2_eq (p w : Word) (s : State) :
    memWrite2 p w s =
      { s with mem := (s.mem.write p.toNat (lo w)).write (inc16 p).toNat (hi w), cyc := s.cyc + 2 } := rfl

theorem fetchByte_eq (s : State) :
    fetchByte s = (s.mem.read s.pc.toNat, { s with pc := s.pc + 1, cyc := s.cyc + 1 }) := rfl

theorem fetchWord_eq (s : State) :
    fetchWord s = (mkWord (s.mem.read (inc16 s.pc).toNat) (s.mem.read s.pc.toNat),
      { s with pc := s.pc + 2, cyc := s.cyc + 2 }) := rfl

theorem operandByte_eq (b : Byte) (s : State) : operandByte b s = (b, { s with pc := s.pc + 1, cyc := s.cyc + 1 }) := rfl

theorem operandWord_eq (w : Word) (s : State) : operandWord w s = (w, { s with pc := s.pc + 2, cyc := s.cyc + 2 }) := rfl

theorem pushWord_eq (w : Word) (s : State) :
    pushWord w s = { s with
      mem := (s.mem.write (stackAddr s.sp).toNat (lo w)).write (inc16 (stackAddr s.sp)).toNat (hi w)
      sp := s.sp + 2
      cyc := s.cyc + 2 } := rfl

theorem pullWord_eq (s : State) :
    pullWord s = (mkWord (s.mem.read (inc16 (stackAddr (s.sp - 2))).toNat) (s.mem.read (stackAddr (s.sp - 2)).toNat),
      { s with sp := s.sp - 2, cyc := s.cyc + 2 }) := rfl

/-! ### Addressing modes -/

theorem operandIM_eq (b : Byte) (s : State) : operandIM b s = (b, { s with pc := s.pc + 1, cyc := s.cyc + 1 }) := rfl

theorem addrZP_eq (b : Byte) (s : State) : addrZP b s = (zext16 b, { s with pc := s.pc + 1, cyc := s.cyc + 1 }) := rfl

theorem addrZPX_eq (b : Byte) (s : State) :
    addrZPX b s = (zext16 (add8 b s.x), { s with pc := s.pc + 1, cyc := s.cyc + 2 }) := rfl

theorem addrAB_eq (w : Word) (s : State) : addrAB w s = (w, { s with pc := s.pc + 2, cyc := s.cyc + 2 }) := rfl

theorem indexed_eq (i : Byte) (base : Word) (s : State) :
    indexed i (base, s) = (add16 base i,
      { s with cyc := s.cyc + if pageCross base (add16 base i) then 1 else 0 }) := by
  simp only [indexed]
  split <;> rfl

theorem addrABX_eq (w : Word) (s : State) :
    addrABX w s = (add16 w s.x,
      { s with pc := s.pc + 2, cyc := s.cyc + 2 + if pageCross w (add16 w s.x) then 1 else 0 }) := by
  rw [addrABX, operandWord_eq, indexed_eq]

theorem addrABY_eq (w : Word) (s : State) :
    addrABY w s = (add16 w s.y,
      { s with pc := s.pc + 2, cyc := s.cyc + 2 + if pageCross w (add16 w s.y) then 1 else 0 }) := by
  rw [addrABY, operandWord_eq, indexed_eq]

theorem addrIZX_eq (b : Byte) (s : State) :
    addrIZX b s = (mkWord (s.mem.read (inc16 (zext16 (add8 b s.x))).toNat) (s.mem.read (zext16 (add8 b s.x)).toNat),
      { s with pc := s.pc + 1, cyc := s.cyc + 4 }) := rfl

/-- The pointer word of mode IZY. -/
def pointerIZY (b : Byte) (s : State) : Word :=
  mkWord (s.mem.read (inc16 (zext16 b)).toNat) (s.mem.read (zext16 b).toNat)

theorem addrIZY_eq (b : Byte) (s : State) :
    addrIZY b s = (add16 (pointerIZY b s) s.y,
      { s with
        pc := s.pc + 1
        cyc := s.cyc + 3 + if pageCross (pointerIZY b s) (add16 (pointerIZY b s) s.y) then 1 else 0 }) := by
  simp only [addrIZY, operandByte_eq, memRead2_eq, indexed_eq]
  rfl

theorem addrIN_eq (w : Word) (s : State) :
    addrIN w s = (mkWord (s.mem.read (inc16 w).toNat) (s.mem.read w.toNat),
      { s with pc := s.pc + 2, cyc := s.cyc + 4 }) := rfl

theorem addrABXrmw_eq (w : Word) (s : State) :
    addrABXrmw w s = (add16 w s.x, { s with pc := s.pc + 2, cyc := s.cyc + 3 }) := rfl

theorem readOperand_eq (p : Word) (s : State) :
    readOperand (p, s) = (s.mem.read p.toNat, { s with cyc := s.cyc + 1 }) := rfl

/-! ### The tails of the instruction families -/

theorem loadA_eq (v : Byte) (s : State) :
    loadA (v, s) = .next { s with a := v, flags := s.flags.setZN v } := rfl

theorem storeA_eq (p : Word) (s : State) :
    storeA (p, s) = .next { s with mem := s.mem.write p.toNat s.a, cyc := s.cyc + 1 } := rfl

theorem accumulate_eq (fn : Byte → Byte → Flags → Byte × Flags) (v : Byte) (s : State) :
    accumulate fn (v, s) = .next { s with a := (fn s.a v s.flags).1, flags := (fn s.a v s.flags).2 } := rfl

theorem modifyA_eq (fn : Byte → Flags → Byte × Flags) (s : State) :
    modifyA fn s = .next { s with a := (fn s.a s.flags).1, flags := (fn s.a s.flags).2, cyc := s.cyc + 1 } := rfl

theorem modifyMem_eq (fn : Byte → Flags → Byte × Flags) (p : Word) (s : State) :
    modifyMem fn (p, s) = .next { s with
      mem := s.mem.write p.toNat (fn (s.mem.read p.toNat) s.flags).1
      flags := (fn (s.mem.read p.toNat) s.flags).2
      cyc := s.cyc + 3 } := rfl

end Sys2Proof.Machine
end

