-- ==== Sys2Proof/Laws/Modes.lean ====
section
/-! SUPPORT. The addressing modes and the tails of the instruction families in the numbers of Safety.lean: what each mode
reads, at what cost, and what each tail leaves, said once for all instructions. -/

namespace Sys2Proof.Machine

/-! ### The numbers of Safety.lean and the model's operations -/

theorem zn_eq (v : Byte) (f : Flags) : zn v f = f.setZN v := by
  have h : (v == 0) = decide (v.toNat = 0) := by
    rw [Bool.eq_iff_iff, beq_iff_eq, decide_eq_true_eq]
    exact ⟨fun h => h ▸ rfl, fun h => BitVec.eq_of_toNat_eq h⟩
  simp only [zn, Flags.setZN, h, BitVec.msb_eq_decide]

theorem wordAt_eq (s : State) (p : Word) :
    wordAt s p.toNat = (mkWord (s.mem.read (inc16 p).toNat) (s.mem.read p.toNat)).toNat := by
  rw [wordAt, mkWord_toNat, inc16_toNat, Nat.mod_eq_of_lt p.isLt]
  omega

theorem crossCycle_eq (base : Word) (i : Byte) :
    (if pageCross base (add16 base i) then 1 else 0) = crossCycle base.toNat i.toNat := by
  rw [pageCross_eq, add16_toNat, crossCycle]
  by_cases h : (base.toNat + i.toNat) % 65536 / 256 = base.toNat / 256
  · simp [h]
  · simp [h, Ne.symm h]

theorem crossCycle_le (base i : Nat) : crossCycle base i ≤ 1 := by
  unfold crossCycle
  split <;> omega

theorem stackAddr_toNat (sp : Byte) : (stackAddr sp).toNat = 256 + sp.toNat := by
  have := sp.isLt
  rw [stackAddr, BitVec.toNat_add, zext16_toNat]
  show (256 + _) % _ = _
  omega

theorem inc16_stackAddr_toNat (sp : Byte) : (inc16 (stackAddr sp)).toNat = 257 + sp.toNat := by
  have := sp.isLt
  rw [inc16_toNat, stackAddr_toNat]
  omega

theorem dec16_add_two (p : Word) : dec16 (p + 2) = p + 1 := by
  show p + 2 - 1 = p + 1
  bv_omega

theorem eaZp_eq (b : Byte) : eaZp b = (zext16 b).toNat := (zext16_toNat b).symm

theorem eaZpx_eq (s : State) (b : Byte) : eaZpx s b = (zext16 (add8 b s.x)).toNat := by
  rw [zext16_toNat, add8_toNat]
  rfl

theorem eaAbx_eq (s : State) (w : Word) : eaAbx s w = (add16 w s.x).toNat := (add16_toNat w s.x).symm

theorem eaAby_eq (s : State) (w : Word) : eaAby s w = (add16 w s.y).toNat := (add16_toNat w s.y).symm

theorem eaIzx_eq (s : State) (b : Byte) : eaIzx s b = (addrIZX b s).1.toNat := by
  rw [addrIZX_eq, ← wordAt_eq, ← eaZpx_eq]
  rfl

theorem pointerIZY_toNat (s : State) (b : Byte) : (pointerIZY b s).toNat = wordAt s b.toNat := by
  rw [pointerIZY, ← wordAt_eq, zext16_toNat]

theorem eaIzy_eq (s : State) (b : Byte) : eaIzy s b = (add16 (pointerIZY b s) s.y).toNat := by
  rw [add16_toNat, pointerIZY_toNat]
  rfl

/-! ### The modes whose cost depends on a page cross -/

theorem addrABX_cross (w : Word) (s : State) :
    addrABX w s = (add16 w s.x, { s with pc := s.pc + 2, cyc := s.cyc + 2 + crossCycle w.toNat s.x.toNat }) := by
  rw [addrABX_eq, crossCycle_eq]

theorem addrABY_cross (w : Word) (s : State) :
    addrABY w s = (add16 w s.y, { s with pc := s.pc + 2, cyc := s.cyc + 2 + crossCycle w.toNat s.y.toNat }) := by
  rw [addrABY_eq, crossCycle_eq]

theorem addrIZY_cross (b : Byte) (s : State) :
    addrIZY b s = (add16 (pointerIZY b s) s.y,
      { s with pc := s.pc + 1, cyc := s.cyc + 3 + crossCycle (wordAt s b.toNat) s.y.toNat }) := by
  rw [addrIZY_eq, crossCycle_eq, pointerIZY_toNat]

/-! ### What a mode reads -/

theorem readZP (b : Byte) (s : State) :
    readOperand (addrZP b s) = (s.mem.read (eaZp b), { s with pc := s.pc + 1, cyc := s.cyc + 2 }) := by
  rw [eaZp_eq]
  rfl

theorem readZPX (b : Byte) (s : State) :
    readOperand (addrZPX b s) = (s.mem.read (eaZpx s b), { s with pc := s.pc + 1, cyc := s.cyc + 3 }) := by
  rw [eaZpx_eq]
  rfl

theorem readAB (w : Word) (s : State) :
    readOperand (addrAB w s) = (s.mem.read (eaAb w), { s with pc := s.pc + 2, cyc := s.cyc + 3 }) := rfl

theorem readABX (w : Word) (s : State) :
    readOperand (addrABX w s) =
      (s.mem.read (eaAbx s w), { s with pc := s.pc + 2, cyc := s.cyc + (3 + crossCycle w.toNat s.x.toNat) }) := by
  rw [addrABX_cross, readOperand_eq, eaAbx_eq]
  simp only [Prod.mk.injEq, true_and]
  congr 1
  omega

theorem readABY (w : Word) (s : State) :
    readOperand (addrABY w s) =
      (s.mem.read (eaAby s w), { s with pc := s.pc + 2, cyc := s.cyc + (3 + crossCycle w.toNat s.y.toNat) }) := by
  rw [addrABY_cross, readOperand_eq, eaAby_eq]
  simp only [Prod.mk.injEq, true_and]
  congr 1
  omega

theorem readIZX (b : Byte) (s : State) :
    readOperand (addrIZX b s) = (s.mem.read (eaIzx s b), { s with pc := s.pc + 1, cyc := s.cyc + 5 }) := by
  rw [eaIzx_eq]
  rfl

theorem readIZY (b : Byte) (s : State) :
    readOperand (addrIZY b s) = (s.mem.read (eaIzy s b),
      { s with pc := s.pc + 1, cyc := s.cyc + (4 + crossCycle (wordAt s b.toNat) s.y.toNat) }) := by
  rw [addrIZY_cross, readOperand_eq, eaIzy_eq]
  simp only [Prod.mk.injEq, true_and]
  congr 1
  omega

/-! ### The tails, after a mode that moved PC and the cycle count -/

theorem loadA_at (v : Byte) (s : State) (pc : Word) (cyc : Nat) :
    loadA (v, { s with pc := pc, cyc := cyc }) =
      .next { s with a := v, flags := s.flags.setZN v, pc := pc, cyc := cyc } := rfl

theorem accumulate_at (fn : Byte → Byte → Flags → Byte × Flags) (v : Byte) (s : State) (pc : Word) (cyc : Nat) :
    accumulate fn (v, { s with pc := pc, cyc := cyc }) =
      .next { s with a := (fn s.a v s.flags).1, flags := (fn s.a v s.flags).2, pc := pc, cyc := cyc } := rfl

theorem storeA_at (p : Word) (s : State) (pc : Word) (cyc : Nat) :
    storeA (p, { s with pc := pc, cyc := cyc }) =
      .next { s with mem := s.mem.write p.toNat s.a, pc := pc, cyc := cyc + 1 } := rfl

theorem modifyMem_at (fn : Byte → Flags → Byte × Flags) (p : Word) (s : State) (pc : Word) (cyc : Nat) :
    modifyMem fn (p, { s with pc := pc, cyc := cyc }) = .next { s with
      mem := s.mem.write p.toNat (fn (s.mem.read p.toNat) s.flags).1
      flags := (fn (s.mem.read p.toNat) s.flags).2
      pc := pc
      cyc := cyc + 3 } := rfl

theorem jsr_eq (w : Word) (s : State) :
    execJsrAb w s = .next { s with
      mem := (s.mem.write (stackAddr s.sp).toNat (lo (s.pc + 1))).write (inc16 (stackAddr s.sp)).toNat (hi (s.pc + 1))
      sp := s.sp + 2
      pc := w
      cyc := s.cyc + 5 } := by
  simp only [execJsrAb, operandWord_eq, pushWord_eq, dec16_add_two]
  rfl

theorem rts_eq (s : State) :
    execRts s = .next { s with
      sp := s.sp - 2
      pc := inc16 (mkWord (s.mem.read (inc16 (stackAddr (s.sp - 2))).toNat) (s.mem.read (stackAddr (s.sp - 2)).toNat))
      cyc := s.cyc + 5 } := rfl

end Sys2Proof.Machine
end

