-- ==== Sys2Proof/Laws/Step.lean ====
section
/-! SUPPORT. What one instruction step can do, said once. -/

namespace Sys2Proof.Machine

/-- The three bytes from PC on, which the decoder is given. -/
def window (s : State) : List Byte :=
  [s.mem.read s.pc.toNat, s.mem.read (s.pc + 1).toNat, s.mem.read (s.pc + 1 + 1).toNat]

/-- A step decodes the bytes from PC on and either runs the instruction in the state after the opcode fetch, or takes
the decode failure of the unlisted byte. -/
theorem step_cases (s : State) :
    (∃ i rest, decode s.config (window s) = .instr i rest ∧
      step s = exec i { s with pc := s.pc + 1, cyc := 1, signal := none }) ∨
    (s.config.lookup (s.mem.read s.pc.toNat) = none ∧
      step s = .next { s with
        pc := s.pc + 1
        cyc := 1
        signal := some ⟨s.mem.read s.pc.toNat, s.pc⟩
        log := ⟨s.mem.read s.pc.toNat, s.pc⟩ :: s.log }) := by
  cases h : s.config.lookup (s.mem.read s.pc.toNat) with
  | some n =>
    obtain ⟨i, rest, hd, -⟩ := decodeOperand_two (s.mem.read s.pc.toNat) n (s.mem.read (s.pc + 1).toNat)
      (s.mem.read (s.pc + 1 + 1).toNat) []
    have hw : decode s.config (window s) = .instr i rest := by rw [window, decode_cons, h]; exact hd
    refine .inl ⟨i, rest, hw, ?_⟩
    show (match decode s.config (window s) with
      | .instr i _ => exec i (fetchByte (beginStep s)).2
      | .reject _ => .next (takeDecodeFailure (fetchByte (beginStep s)).1 s.pc (fetchByte (beginStep s)).2)) = _
    rw [hw]
    rfl
  | none =>
    have hw : decode s.config (window s) = .reject (.unrecognised (s.mem.read s.pc.toNat)) := by
      rw [window, decode_cons, h]
    refine .inr ⟨rfl, ?_⟩
    show (match decode s.config (window s) with
      | .instr i _ => exec i (fetchByte (beginStep s)).2
      | .reject _ => .next (takeDecodeFailure (fetchByte (beginStep s)).1 s.pc (fetchByte (beginStep s)).2)) = _
    rw [hw]
    rfl

end Sys2Proof.Machine
end

