-- ==== Sys2Proof/Laws/Exec.lean ====
section
/-! SUPPORT. What one instruction, and one step, can do to each piece of state, said once for all 79 instructions. -/

namespace Sys2Proof.Machine

/-- What `exec i s = .next t` can have done. -/
structure ExecEffect (i : Instr) (s t : State) : Prop where
  x      : t.x = s.x
  y      : t.y = s.y
  flagI  : t.flags.i = s.flags.i
  flagD  : t.flags.d = s.flags.d
  flagB  : t.flags.b = s.flags.b
  config : t.config = s.config
  signal : t.signal = s.signal
  log    : t.log = s.log
  cyc    : t.cyc + 1 = s.cyc + cycleTotal s i
  core   : i.opcode.isExtension = false → t.flags.c = s.flags.c ∧ t.flags.v = s.flags.v ∧
    (i.opcode.isLda = false → t.a = s.a ∧ t.flags = s.flags)
  sp     : (i.opcode ≠ .jsrAb ∧ i.opcode ≠ .rts ∧ t.sp = s.sp) ∨ (i.opcode = .jsrAb ∧ t.sp = s.sp + 2) ∨
    (i.opcode = .rts ∧ t.sp = s.sp - 2)
  mem    : i.opcode.storesToMemory = false → t.mem = s.mem
  memWf  : s.mem.wf = true → t.mem.wf = true
  pc     : i.opcode.loadsPc = false → (t.pc.toNat + 1) % 65536 = (s.pc.toNat + i.length) % 65536

theorem pc_after_one (p : Word) : ((p + 1).toNat + 1) % 65536 = (p.toNat + 2) % 65536 := by
  rw [BitVec.toNat_add]
  simp

theorem pc_after_two (p : Word) : ((p + 2).toNat + 1) % 65536 = (p.toNat + 3) % 65536 := by
  rw [BitVec.toNat_add]
  simp

/-- An instruction that writes A and flags and goes on in sequence. -/
theorem effect_of_write_a {i : Instr} {s : State} {v : Byte} {pc : Word} {cyc : Nat} {f : Flags}
    (h : exec i s = .next { s with a := v, flags := f, pc := pc, cyc := cyc })
    (hf : f.i = s.flags.i ∧ f.d = s.flags.d ∧ f.b = s.flags.b)
    (he : i.opcode.isExtension = false → f.c = s.flags.c ∧ f.v = s.flags.v ∧ i.opcode.isLda = true)
    (hk : cyc + 1 = s.cyc + cycleTotal s i) (hsp : i.opcode ≠ .jsrAb ∧ i.opcode ≠ .rts)
    (hpc : (pc.toNat + 1) % 65536 = (s.pc.toNat + i.length) % 65536) : ∃ t, exec i s = .next t ∧ ExecEffect i s t :=
  ⟨_, h, {
    x := rfl
    y := rfl
    flagI := hf.1
    flagD := hf.2.1
    flagB := hf.2.2
    config := rfl
    signal := rfl
    log := rfl
    cyc := hk
    core := fun e => ⟨(he e).1, (he e).2.1, fun hl => by rw [(he e).2.2] at hl; cases hl⟩
    sp := .inl ⟨hsp.1, hsp.2, rfl⟩
    mem := fun _ => rfl
    memWf := id
    pc := fun _ => hpc }⟩

theorem effect_of_load {i : Instr} {s : State} {v : Byte} {pc : Word} {cyc : Nat}
    (h : exec i s = .next { s with a := v, flags := s.flags.setZN v, pc := pc, cyc := cyc })
    (he : i.opcode.isLda = true) (hk : cyc + 1 = s.cyc + cycleTotal s i)
    (hsp : i.opcode ≠ .jsrAb ∧ i.opcode ≠ .rts)
    (hpc : (pc.toNat + 1) % 65536 = (s.pc.toNat + i.length) % 65536) : ∃ t, exec i s = .next t ∧ ExecEffect i s t :=
  effect_of_write_a h ⟨rfl, rfl, rfl⟩ (fun _ => ⟨rfl, rfl, he⟩) hk hsp hpc

theorem effect_of_accumulate {i : Instr} {s : State} {v : Byte} {fn : Byte → Byte → Flags → Byte × Flags} {pc : Word}
    {cyc : Nat}
    (h : exec i s = .next { s with a := (fn s.a v s.flags).1, flags := (fn s.a v s.flags).2, pc := pc, cyc := cyc })
    (hf : ∀ a m f, (fn a m f).2.i = f.i ∧ (fn a m f).2.d = f.d ∧ (fn a m f).2.b = f.b)
    (he : i.opcode.isExtension = true) (hk : cyc + 1 = s.cyc + cycleTotal s i)
    (hsp : i.opcode ≠ .jsrAb ∧ i.opcode ≠ .rts)
    (hpc : (pc.toNat + 1) % 65536 = (s.pc.toNat + i.length) % 65536) : ∃ t, exec i s = .next t ∧ ExecEffect i s t :=
  effect_of_write_a h (hf _ _ _) (fun e => by rw [he] at e; cases e) hk hsp hpc

/-- An instruction that writes one byte and perhaps flags, and goes on in sequence. -/
theorem effect_of_store {i : Instr} {s : State} {v : Byte} {p pc : Word} {cyc : Nat} {f : Flags}
    (h : exec i s = .next { s with mem := s.mem.write p.toNat v, flags := f, pc := pc, cyc := cyc })
    (hf : f.i = s.flags.i ∧ f.d = s.flags.d ∧ f.b = s.flags.b) (he : i.opcode.isExtension = false → f = s.flags)
    (hk : cyc + 1 = s.cyc + cycleTotal s i) (hsp : i.opcode ≠ .jsrAb ∧ i.opcode ≠ .rts)
    (hst : i.opcode.storesToMemory = true)
    (hpc : (pc.toNat + 1) % 65536 = (s.pc.toNat + i.length) % 65536) : ∃ t, exec i s = .next t ∧ ExecEffect i s t :=
  ⟨_, h, {
    x := rfl
    y := rfl
    flagI := hf.1
    flagD := hf.2.1
    flagB := hf.2.2
    config := rfl
    signal := rfl
    log := rfl
    cyc := hk
    core := fun e => by rw [he e]; exact ⟨rfl, rfl, fun _ => ⟨rfl, rfl⟩⟩
    sp := .inl ⟨hsp.1, hsp.2, rfl⟩
    mem := fun e => by rw [hst] at e; cases e
    memWf := fun hm => Memory.wf_write_word hm p v
    pc := fun _ => hpc }⟩

theorem effect_of_modify {i : Instr} {s : State} {fn : Byte → Flags → Byte × Flags} {p pc : Word} {cyc : Nat}
    (h : exec i s = .next { s with
      mem := s.mem.write p.toNat (fn (s.mem.read p.toNat) s.flags).1
      flags := (fn (s.mem.read p.toNat) s.flags).2
      pc := pc
      cyc := cyc })
    (hf : ∀ v f, (fn v f).2.i = f.i ∧ (fn v f).2.d = f.d ∧ (fn v f).2.b = f.b)
    (he : i.opcode.isExtension = true) (hk : cyc + 1 = s.cyc + cycleTotal s i)
    (hsp : i.opcode ≠ .jsrAb ∧ i.opcode ≠ .rts) (hst : i.opcode.storesToMemory = true)
    (hpc : (pc.toNat + 1) % 65536 = (s.pc.toNat + i.length) % 65536) : ∃ t, exec i s = .next t ∧ ExecEffect i s t :=
  effect_of_store h (hf _ _) (fun e => by rw [he] at e; cases e) hk hsp hst hpc

/-- Every instruction completes from every state, and this is all it can do. -/
theorem exec_effect (i : Instr) (s : State) : ∃ t, exec i s = .next t ∧ ExecEffect i s t := by
  cases i with
  | ldaIm b => exact effect_of_load rfl rfl rfl ⟨nofun, nofun⟩ (pc_after_one _)
  | ldaZp b => exact effect_of_load (by rw [exec, execLdaZp, readZP, loadA_at]) rfl rfl ⟨nofun, nofun⟩ (pc_after_one _)
  | ldaZpx b => exact effect_of_load (by rw [exec, execLdaZpx, readZPX, loadA_at]) rfl rfl ⟨nofun, nofun⟩ (pc_after_one _)
  | ldaAb w => exact effect_of_load (by rw [exec, execLdaAb, readAB, loadA_at]) rfl rfl ⟨nofun, nofun⟩ (pc_after_two _)
  | ldaAbx w => exact effect_of_load (by rw [exec, execLdaAbx, readABX, loadA_at]) rfl (by simp only [cycleTotal]; omega) ⟨nofun, nofun⟩ (pc_after_two _)
  | ldaAby w => exact effect_of_load (by rw [exec, execLdaAby, readABY, loadA_at]) rfl (by simp only [cycleTotal]; omega) ⟨nofun, nofun⟩ (pc_after_two _)
  | ldaIzx b => exact effect_of_load (by rw [exec, execLdaIzx, readIZX, loadA_at]) rfl rfl ⟨nofun, nofun⟩ (pc_after_one _)
  | ldaIzy b => exact effect_of_load (by rw [exec, execLdaIzy, readIZY, loadA_at]) rfl (by simp only [cycleTotal]; omega) ⟨nofun, nofun⟩ (pc_after_one _)
  | staZp b => exact effect_of_store (by rw [exec, execStaZp, addrZP_eq, storeA_at]) ⟨rfl, rfl, rfl⟩ (fun _ => rfl) rfl ⟨nofun, nofun⟩ rfl (pc_after_one _)
  | staZpx b => exact effect_of_store (by rw [exec, execStaZpx, addrZPX_eq, storeA_at]) ⟨rfl, rfl, rfl⟩ (fun _ => rfl) rfl ⟨nofun, nofun⟩ rfl (pc_after_one _)
  | staAb w => exact effect_of_store (by rw [exec, execStaAb, addrAB_eq, storeA_at]) ⟨rfl, rfl, rfl⟩ (fun _ => rfl) rfl ⟨nofun, nofun⟩ rfl (pc_after_two _)
  | staAbx w => exact effect_of_store (by rw [exec, execStaAbx, addrABX_cross, storeA_at]) ⟨rfl, rfl, rfl⟩ (fun _ => rfl) (by simp only [cycleTotal]; omega) ⟨nofun, nofun⟩ rfl (pc_after_two _)
  | staAby w => exact effect_of_store (by rw [exec, execStaAby, addrABY_cross, storeA_at]) ⟨rfl, rfl, rfl⟩ (fun _ => rfl) (by simp only [cycleTotal]; omega) ⟨nofun, nofun⟩ rfl (pc_after_two _)
  | staIzx b => exact effect_of_store (by rw [exec, execStaIzx, addrIZX_eq, storeA_at]) ⟨rfl, rfl, rfl⟩ (fun _ => rfl) rfl ⟨nofun, nofun⟩ rfl (pc_after_one _)
  | staIzy b => exact effect_of_store (by rw [exec, execStaIzy, addrIZY_cross, storeA_at]) ⟨rfl, rfl, rfl⟩ (fun _ => rfl) (by simp only [cycleTotal]; omega) ⟨nofun, nofun⟩ rfl (pc_after_one _)
  | jmpAb w =>
    exact ⟨_, rfl, rfl, rfl, rfl, rfl, rfl, rfl, rfl, rfl, rfl, fun _ => ⟨rfl, rfl, fun _ => ⟨rfl, rfl⟩⟩,
      .inl ⟨nofun, nofun, rfl⟩, fun _ => rfl, id, nofun⟩
  | jmpIn w =>
    exact ⟨_, rfl, rfl, rfl, rfl, rfl, rfl, rfl, rfl, rfl, rfl, fun _ => ⟨rfl, rfl, fun _ => ⟨rfl, rfl⟩⟩,
      .inl ⟨nofun, nofun, rfl⟩, fun _ => rfl, id, nofun⟩
  | jsrAb w =>
    exact ⟨_, jsr_eq w s, rfl, rfl, rfl, rfl, rfl, rfl, rfl, rfl, rfl, fun _ => ⟨rfl, rfl, fun _ => ⟨rfl, rfl⟩⟩,
      .inr (.inl ⟨rfl, rfl⟩), nofun, fun h => Memory.wf_write_word (Memory.wf_write_word h _ _) _ _, nofun⟩
  | rts =>
    exact ⟨_, rts_eq s, rfl, rfl, rfl, rfl, rfl, rfl, rfl, rfl, rfl, fun _ => ⟨rfl, rfl, fun _ => ⟨rfl, rfl⟩⟩,
      .inr (.inr ⟨rfl, rfl⟩), fun _ => rfl, id, nofun⟩
  | adcIm b => exact effect_of_accumulate (fn := adcFn) rfl (fun _ _ _ => ⟨rfl, rfl, rfl⟩) rfl rfl ⟨nofun, nofun⟩ (pc_after_one _)
  | adcZp b => exact effect_of_accumulate (by rw [exec, execAdcZp, readZP, accumulate_at]) (fun _ _ _ => ⟨rfl, rfl, rfl⟩) rfl rfl ⟨nofun, nofun⟩ (pc_after_one _)
  | adcZpx b => exact effect_of_accumulate (by rw [exec, execAdcZpx, readZPX, accumulate_at]) (fun _ _ _ => ⟨rfl, rfl, rfl⟩) rfl rfl ⟨nofun, nofun⟩ (pc_after_one _)
  | adcAb w => exact effect_of_accumulate (by rw [exec, execAdcAb, readAB, accumulate_at]) (fun _ _ _ => ⟨rfl, rfl, rfl⟩) rfl rfl ⟨nofun, nofun⟩ (pc_after_two _)
  | adcAbx w => exact effect_of_accumulate (by rw [exec, execAdcAbx, readABX, accumulate_at]) (fun _ _ _ => ⟨rfl, rfl, rfl⟩) rfl (by simp only [cycleTotal]; omega) ⟨nofun, nofun⟩ (pc_after_two _)
  | adcAby w => exact effect_of_accumulate (by rw [exec, execAdcAby, readABY, accumulate_at]) (fun _ _ _ => ⟨rfl, rfl, rfl⟩) rfl (by simp only [cycleTotal]; omega) ⟨nofun, nofun⟩ (pc_after_two _)
  | adcIzx b => exact effect_of_accumulate (by rw [exec, execAdcIzx, readIZX, accumulate_at]) (fun _ _ _ => ⟨rfl, rfl, rfl⟩) rfl rfl ⟨nofun, nofun⟩ (pc_after_one _)
  | adcIzy b => exact effect_of_accumulate (by rw [exec, execAdcIzy, readIZY, accumulate_at]) (fun _ _ _ => ⟨rfl, rfl, rfl⟩) rfl (by simp only [cycleTotal]; omega) ⟨nofun, nofun⟩ (pc_after_one _)
  | sbcIm b => exact effect_of_accumulate (fn := sbcFn) rfl (fun _ _ _ => ⟨rfl, rfl, rfl⟩) rfl rfl ⟨nofun, nofun⟩ (pc_after_one _)
  | sbcZp b => exact effect_of_accumulate (by rw [exec, execSbcZp, readZP, accumulate_at]) (fun _ _ _ => ⟨rfl, rfl, rfl⟩) rfl rfl ⟨nofun, nofun⟩ (pc_after_one _)
  | sbcZpx b => exact effect_of_accumulate (by rw [exec, execSbcZpx, readZPX, accumulate_at]) (fun _ _ _ => ⟨rfl, rfl, rfl⟩) rfl rfl ⟨nofun, nofun⟩ (pc_after_one _)
  | sbcAb w => exact effect_of_accumulate (by rw [exec, execSbcAb, readAB, accumulate_at]) (fun _ _ _ => ⟨rfl, rfl, rfl⟩) rfl rfl ⟨nofun, nofun⟩ (pc_after_two _)
  | sbcAbx w => exact effect_of_accumulate (by rw [exec, execSbcAbx, readABX, accumulate_at]) (fun _ _ _ => ⟨rfl, rfl, rfl⟩) rfl (by simp only [cycleTotal]; omega) ⟨nofun, nofun⟩ (pc_after_two _)
  | sbcAby w => exact effect_of_accumulate (by rw [exec, execSbcAby, readABY, accumulate_at]) (fun _ _ _ => ⟨rfl, rfl, rfl⟩) rfl (by simp only [cycleTotal]; omega) ⟨nofun, nofun⟩ (pc_after_two _)
  | sbcIzx b => exact effect_of_accumulate (by rw [exec, execSbcIzx, readIZX, accumulate_at]) (fun _ _ _ => ⟨rfl, rfl, rfl⟩) rfl rfl ⟨nofun, nofun⟩ (pc_after_one _)
  | sbcIzy b => exact effect_of_accumulate (by rw [exec, execSbcIzy, readIZY, accumulate_at]) (fun _ _ _ => ⟨rfl, rfl, rfl⟩) rfl (by simp only [cycleTotal]; omega) ⟨nofun, nofun⟩ (pc_after_one _)
  | andIm b => exact effect_of_accumulate (fn := andFn) rfl (fun _ _ _ => ⟨rfl, rfl, rfl⟩) rfl rfl ⟨nofun, nofun⟩ (pc_after_one _)
  | andZp b => exact effect_of_accumulate (by rw [exec, execAndZp, readZP, accumulate_at]) (fun _ _ _ => ⟨rfl, rfl, rfl⟩) rfl rfl ⟨nofun, nofun⟩ (pc_after_one _)
  | andZpx b => exact effect_of_accumulate (by rw [exec, execAndZpx, readZPX, accumulate_at]) (fun _ _ _ => ⟨rfl, rfl, rfl⟩) rfl rfl ⟨nofun, nofun⟩ (pc_after_one _)
  | andAb w => exact effect_of_accumulate (by rw [exec, execAndAb, readAB, accumulate_at]) (fun _ _ _ => ⟨rfl, rfl, rfl⟩) rfl rfl ⟨nofun, nofun⟩ (pc_after_two _)
  | andAbx w => exact effect_of_accumulate (by rw [exec, execAndAbx, readABX, accumulate_at]) (fun _ _ _ => ⟨rfl, rfl, rfl⟩) rfl (by simp only [cycleTotal]; omega) ⟨nofun, nofun⟩ (pc_after_two _)
  | andAby w => exact effect_of_accumulate (by rw [exec, execAndAby, readABY, accumulate_at]) (fun _ _ _ => ⟨rfl, rfl, rfl⟩) rfl (by simp only [cycleTotal]; omega) ⟨nofun, nofun⟩ (pc_after_two _)
  | andIzx b => exact effect_of_accumulate (by rw [exec, execAndIzx, readIZX, accumulate_at]) (fun _ _ _ => ⟨rfl, rfl, rfl⟩) rfl rfl ⟨nofun, nofun⟩ (pc_after_one _)
  | andIzy b => exact effect_of_accumulate (by rw [exec, execAndIzy, readIZY, accumulate_at]) (fun _ _ _ => ⟨rfl, rfl, rfl⟩) rfl (by simp only [cycleTotal]; omega) ⟨nofun, nofun⟩ (pc_after_one _)
  | oraIm b => exact effect_of_accumulate (fn := oraFn) rfl (fun _ _ _ => ⟨rfl, rfl, rfl⟩) rfl rfl ⟨nofun, nofun⟩ (pc_after_one _)
  | oraZp b => exact effect_of_accumulate (by rw [exec, execOraZp, readZP, accumulate_at]) (fun _ _ _ => ⟨rfl, rfl, rfl⟩) rfl rfl ⟨nofun, nofun⟩ (pc_after_one _)
  | oraZpx b => exact effect_of_accumulate (by rw [exec, execOraZpx, readZPX, accumulate_at]) (fun _ _ _ => ⟨rfl, rfl, rfl⟩) rfl rfl ⟨nofun, nofun⟩ (pc_after_one _)
  | oraAb w => exact effect_of_accumulate (by rw [exec, execOraAb, readAB, accumulate_at]) (fun _ _ _ => ⟨rfl, rfl, rfl⟩) rfl rfl ⟨nofun, nofun⟩ (pc_after_two _)
  | oraAbx w => exact effect_of_accumulate (by rw [exec, execOraAbx, readABX, accumulate_at]) (fun _ _ _ => ⟨rfl, rfl, rfl⟩) rfl (by simp only [cycleTotal]; omega) ⟨nofun, nofun⟩ (pc_after_two _)
  | oraAby w => exact effect_of_accumulate (by rw [exec, execOraAby, readABY, accumulate_at]) (fun _ _ _ => ⟨rfl, rfl, rfl⟩) rfl (by simp only [cycleTotal]; omega) ⟨nofun, nofun⟩ (pc_after_two _)
  | oraIzx b => exact effect_of_accumulate (by rw [exec, execOraIzx, readIZX, accumulate_at]) (fun _ _ _ => ⟨rfl, rfl, rfl⟩) rfl rfl ⟨nofun, nofun⟩ (pc_after_one _)
  | oraIzy b => exact effect_of_accumulate (by rw [exec, execOraIzy, readIZY, accumulate_at]) (fun _ _ _ => ⟨rfl, rfl, rfl⟩) rfl (by simp only [cycleTotal]; omega) ⟨nofun, nofun⟩ (pc_after_one _)
  | eorIm b => exact effect_of_accumulate (fn := eorFn) rfl (fun _ _ _ => ⟨rfl, rfl, rfl⟩) rfl rfl ⟨nofun, nofun⟩ (pc_after_one _)
  | eorZp b => exact effect_of_accumulate (by rw [exec, execEorZp, readZP, accumulate_at]) (fun _ _ _ => ⟨rfl, rfl, rfl⟩) rfl rfl ⟨nofun, nofun⟩ (pc_after_one _)
  | eorZpx b => exact effect_of_accumulate (by rw [exec, execEorZpx, readZPX, accumulate_at]) (fun _ _ _ => ⟨rfl, rfl, rfl⟩) rfl rfl ⟨nofun, nofun⟩ (pc_after_one _)
  | eorAb w => exact effect_of_accumulate (by rw [exec, execEorAb, readAB, accumulate_at]) (fun _ _ _ => ⟨rfl, rfl, rfl⟩) rfl rfl ⟨nofun, nofun⟩ (pc_after_two _)
  | eorAbx w => exact effect_of_accumulate (by rw [exec, execEorAbx, readABX, accumulate_at]) (fun _ _ _ => ⟨rfl, rfl, rfl⟩) rfl (by simp only [cycleTotal]; omega) ⟨nofun, nofun⟩ (pc_after_two _)
  | eorAby w => exact effect_of_accumulate (by rw [exec, execEorAby, readABY, accumulate_at]) (fun _ _ _ => ⟨rfl, rfl, rfl⟩) rfl (by simp only [cycleTotal]; omega) ⟨nofun, nofun⟩ (pc_after_two _)
  | eorIzx b => exact effect_of_accumulate (by rw [exec, execEorIzx, readIZX, accumulate_at]) (fun _ _ _ => ⟨rfl, rfl, rfl⟩) rfl rfl ⟨nofun, nofun⟩ (pc_after_one _)
  | eorIzy b => exact effect_of_accumulate (by rw [exec, execEorIzy, readIZY, accumulate_at]) (fun _ _ _ => ⟨rfl, rfl, rfl⟩) rfl (by simp only [cycleTotal]; omega) ⟨nofun, nofun⟩ (pc_after_one _)
  | aslAcc => exact effect_of_write_a (modifyA_eq aslFn s) ⟨rfl, rfl, rfl⟩ nofun rfl ⟨nofun, nofun⟩ rfl
  | aslZp b => exact effect_of_modify (by rw [exec, execAslZp, addrZP_eq, modifyMem_at]) (fun _ _ => ⟨rfl, rfl, rfl⟩) rfl rfl ⟨nofun, nofun⟩ rfl (pc_after_one _)
  | aslZpx b => exact effect_of_modify (by rw [exec, execAslZpx, addrZPX_eq, modifyMem_at]) (fun _ _ => ⟨rfl, rfl, rfl⟩) rfl rfl ⟨nofun, nofun⟩ rfl (pc_after_one _)
  | aslAb w => exact effect_of_modify (by rw [exec, execAslAb, addrAB_eq, modifyMem_at]) (fun _ _ => ⟨rfl, rfl, rfl⟩) rfl rfl ⟨nofun, nofun⟩ rfl (pc_after_two _)
  | aslAbx w => exact effect_of_modify (by rw [exec, execAslAbx, addrABXrmw_eq, modifyMem_at]) (fun _ _ => ⟨rfl, rfl, rfl⟩) rfl rfl ⟨nofun, nofun⟩ rfl (pc_after_two _)
  | lsrAcc => exact effect_of_write_a (modifyA_eq lsrFn s) ⟨rfl, rfl, rfl⟩ nofun rfl ⟨nofun, nofun⟩ rfl
  | lsrZp b => exact effect_of_modify (by rw [exec, execLsrZp, addrZP_eq, modifyMem_at]) (fun _ _ => ⟨rfl, rfl, rfl⟩) rfl rfl ⟨nofun, nofun⟩ rfl (pc_after_one _)
  | lsrZpx b => exact effect_of_modify (by rw [exec, execLsrZpx, addrZPX_eq, modifyMem_at]) (fun _ _ => ⟨rfl, rfl, rfl⟩) rfl rfl ⟨nofun, nofun⟩ rfl (pc_after_one _)
  | lsrAb w => exact effect_of_modify (by rw [exec, execLsrAb, addrAB_eq, modifyMem_at]) (fun _ _ => ⟨rfl, rfl, rfl⟩) rfl rfl ⟨nofun, nofun⟩ rfl (pc_after_two _)
  | lsrAbx w => exact effect_of_modify (by rw [exec, execLsrAbx, addrABXrmw_eq, modifyMem_at]) (fun _ _ => ⟨rfl, rfl, rfl⟩) rfl rfl ⟨nofun, nofun⟩ rfl (pc_after_two _)
  | rolAcc => exact effect_of_write_a (modifyA_eq rolFn s) ⟨rfl, rfl, rfl⟩ nofun rfl ⟨nofun, nofun⟩ rfl
  | rolZp b => exact effect_of_modify (by rw [exec, execRolZp, addrZP_eq, modifyMem_at]) (fun _ _ => ⟨rfl, rfl, rfl⟩) rfl rfl ⟨nofun, nofun⟩ rfl (pc_after_one _)
  | rolZpx b => exact effect_of_modify (by rw [exec, execRolZpx, addrZPX_eq, modifyMem_at]) (fun _ _ => ⟨rfl, rfl, rfl⟩) rfl rfl ⟨nofun, nofun⟩ rfl (pc_after_one _)
  | rolAb w => exact effect_of_modify (by rw [exec, execRolAb, addrAB_eq, modifyMem_at]) (fun _ _ => ⟨rfl, rfl, rfl⟩) rfl rfl ⟨nofun, nofun⟩ rfl (pc_after_two _)
  | rolAbx w => exact effect_of_modify (by rw [exec, execRolAbx, addrABXrmw_eq, modifyMem_at]) (fun _ _ => ⟨rfl, rfl, rfl⟩) rfl rfl ⟨nofun, nofun⟩ rfl (pc_after_two _)
  | rorAcc => exact effect_of_write_a (modifyA_eq rorFn s) ⟨rfl, rfl, rfl⟩ nofun rfl ⟨nofun, nofun⟩ rfl
  | rorZp b => exact effect_of_modify (by rw [exec, execRorZp, addrZP_eq, modifyMem_at]) (fun _ _ => ⟨rfl, rfl, rfl⟩) rfl rfl ⟨nofun, nofun⟩ rfl (pc_after_one _)
  | rorZpx b => exact effect_of_modify (by rw [exec, execRorZpx, addrZPX_eq, modifyMem_at]) (fun _ _ => ⟨rfl, rfl, rfl⟩) rfl rfl ⟨nofun, nofun⟩ rfl (pc_after_one _)
  | rorAb w => exact effect_of_modify (by rw [exec, execRorAb, addrAB_eq, modifyMem_at]) (fun _ _ => ⟨rfl, rfl, rfl⟩) rfl rfl ⟨nofun, nofun⟩ rfl (pc_after_two _)
  | rorAbx w => exact effect_of_modify (by rw [exec, execRorAbx, addrABXrmw_eq, modifyMem_at]) (fun _ _ => ⟨rfl, rfl, rfl⟩) rfl rfl ⟨nofun, nofun⟩ rfl (pc_after_two _)

/-! ### One step -/

/-- The name of a decoded instruction is the row that its opcode byte selects. -/
theorem lookup_of_decode {c : Config} {op b1 b2 : Byte} {i : Instr} {rest : List Byte}
    (h : decode c [op, b1, b2] = .instr i rest) : c.lookup op = some i.opcode := by
  rw [decode_cons] at h
  cases hl : c.lookup op with
  | none => rw [hl] at h; cases h
  | some n =>
    rw [hl] at h
    simp only at h
    cases n <;> cases h <;> rfl

theorem codeBytes_eq_window (s : State) : s.codeBytes = window s := by
  have h : s.pc + 1 + 1 = s.pc + 2 := by bv_omega
  rw [window, h]
  rfl

/-- Everything one step can do: an instruction of the table, with its effect, or the decode failure of an unlisted
byte. -/
theorem step_effect (s : State) :
    (∃ i rest t, decode s.config s.codeBytes = .instr i rest ∧ s.nextOpcode = some i.opcode ∧ step s = .next t ∧
      exec i s.afterOpcodeFetch = .next t ∧ ExecEffect i s.afterOpcodeFetch t) ∨
    (s.nextOpcode = none ∧ step s = .next { s with
      pc := s.pc + 1
      cyc := 1
      signal := some ⟨s.mem.read s.pc.toNat, s.pc⟩
      log := ⟨s.mem.read s.pc.toNat, s.pc⟩ :: s.log }) := by
  rcases step_cases s with ⟨i, rest, hd, hs⟩ | ⟨hl, hs⟩
  · obtain ⟨t, ht, he⟩ := exec_effect i s.afterOpcodeFetch
    exact .inl ⟨i, rest, t, by rw [codeBytes_eq_window]; exact hd, lookup_of_decode hd, hs.trans ht, ht, he⟩
  · exact .inr ⟨hl, hs⟩

end Sys2Proof.Machine
end

