-- ==== Sys2Proof/Laws/PerInstr.lean ====
section
/-! SUPPORT. The per-instruction family OperandRebuild: the decoder rebuilds every instruction from its own name and
operand bytes, whatever bytes follow (30_encoding.md R80 to R83). -/

namespace Sys2Proof.Laws.OperandRebuild

/-- The operand bytes of `i` after an opcode byte of its name decode to `i`, and the bytes after them are left. -/
def Statement (i : Instr) : Prop :=
  ∀ (op : Byte) (rest : List Byte), decodeOperand op i.opcode (i.operandBytes ++ rest) = .instr i rest

theorem ldaIm (b : Byte) : Statement (.ldaIm b) := fun _ _ => rfl
theorem ldaZp (b : Byte) : Statement (.ldaZp b) := fun _ _ => rfl
theorem ldaZpx (b : Byte) : Statement (.ldaZpx b) := fun _ _ => rfl
theorem ldaAb (w : Word) : Statement (.ldaAb w) := fun op rest => decodeOperand_word rfl op w rest
theorem ldaAbx (w : Word) : Statement (.ldaAbx w) := fun op rest => decodeOperand_word rfl op w rest
theorem ldaAby (w : Word) : Statement (.ldaAby w) := fun op rest => decodeOperand_word rfl op w rest
theorem ldaIzx (b : Byte) : Statement (.ldaIzx b) := fun _ _ => rfl
theorem ldaIzy (b : Byte) : Statement (.ldaIzy b) := fun _ _ => rfl
theorem staZp (b : Byte) : Statement (.staZp b) := fun _ _ => rfl
theorem staZpx (b : Byte) : Statement (.staZpx b) := fun _ _ => rfl
theorem staAb (w : Word) : Statement (.staAb w) := fun op rest => decodeOperand_word rfl op w rest
theorem staAbx (w : Word) : Statement (.staAbx w) := fun op rest => decodeOperand_word rfl op w rest
theorem staAby (w : Word) : Statement (.staAby w) := fun op rest => decodeOperand_word rfl op w rest
theorem staIzx (b : Byte) : Statement (.staIzx b) := fun _ _ => rfl
theorem staIzy (b : Byte) : Statement (.staIzy b) := fun _ _ => rfl
theorem jmpAb (w : Word) : Statement (.jmpAb w) := fun op rest => decodeOperand_word rfl op w rest
theorem jmpIn (w : Word) : Statement (.jmpIn w) := fun op rest => decodeOperand_word rfl op w rest
theorem jsrAb (w : Word) : Statement (.jsrAb w) := fun op rest => decodeOperand_word rfl op w rest
theorem rts : Statement .rts := fun _ _ => rfl
theorem adcIm (b : Byte) : Statement (.adcIm b) := fun _ _ => rfl
theorem adcZp (b : Byte) : Statement (.adcZp b) := fun _ _ => rfl
theorem adcZpx (b : Byte) : Statement (.adcZpx b) := fun _ _ => rfl
theorem adcAb (w : Word) : Statement (.adcAb w) := fun op rest => decodeOperand_word rfl op w rest
theorem adcAbx (w : Word) : Statement (.adcAbx w) := fun op rest => decodeOperand_word rfl op w rest
theorem adcAby (w : Word) : Statement (.adcAby w) := fun op rest => decodeOperand_word rfl op w rest
theorem adcIzx (b : Byte) : Statement (.adcIzx b) := fun _ _ => rfl
theorem adcIzy (b : Byte) : Statement (.adcIzy b) := fun _ _ => rfl
theorem sbcIm (b : Byte) : Statement (.sbcIm b) := fun _ _ => rfl
theorem sbcZp (b : Byte) : Statement (.sbcZp b) := fun _ _ => rfl
theorem sbcZpx (b : Byte) : Statement (.sbcZpx b) := fun _ _ => rfl
theorem sbcAb (w : Word) : Statement (.sbcAb w) := fun op rest => decodeOperand_word rfl op w rest
theorem sbcAbx (w : Word) : Statement (.sbcAbx w) := fun op rest => decodeOperand_word rfl op w rest
theorem sbcAby (w : Word) : Statement (.sbcAby w) := fun op rest => decodeOperand_word rfl op w rest
theorem sbcIzx (b : Byte) : Statement (.sbcIzx b) := fun _ _ => rfl
theorem sbcIzy (b : Byte) : Statement (.sbcIzy b) := fun _ _ => rfl
theorem andIm (b : Byte) : Statement (.andIm b) := fun _ _ => rfl
theorem andZp (b : Byte) : Statement (.andZp b) := fun _ _ => rfl
theorem andZpx (b : Byte) : Statement (.andZpx b) := fun _ _ => rfl
theorem andAb (w : Word) : Statement (.andAb w) := fun op rest => decodeOperand_word rfl op w rest
theorem andAbx (w : Word) : Statement (.andAbx w) := fun op rest => decodeOperand_word rfl op w rest
theorem andAby (w : Word) : Statement (.andAby w) := fun op rest => decodeOperand_word rfl op w rest
theorem andIzx (b : Byte) : Statement (.andIzx b) := fun _ _ => rfl
theorem andIzy (b : Byte) : Statement (.andIzy b) := fun _ _ => rfl
theorem oraIm (b : Byte) : Statement (.oraIm b) := fun _ _ => rfl
theorem oraZp (b : Byte) : Statement (.oraZp b) := fun _ _ => rfl
theorem oraZpx (b : Byte) : Statement (.oraZpx b) := fun _ _ => rfl
theorem oraAb (w : Word) : Statement (.oraAb w) := fun op rest => decodeOperand_word rfl op w rest
theorem oraAbx (w : Word) : Statement (.oraAbx w) := fun op rest => decodeOperand_word rfl op w rest
theorem oraAby (w : Word) : Statement (.oraAby w) := fun op rest => decodeOperand_word rfl op w rest
theorem oraIzx (b : Byte) : Statement (.oraIzx b) := fun _ _ => rfl
theorem oraIzy (b : Byte) : Statement (.oraIzy b) := fun _ _ => rfl
theorem eorIm (b : Byte) : Statement (.eorIm b) := fun _ _ => rfl
theorem eorZp (b : Byte) : Statement (.eorZp b) := fun _ _ => rfl
theorem eorZpx (b : Byte) : Statement (.eorZpx b) := fun _ _ => rfl
theorem eorAb (w : Word) : Statement (.eorAb w) := fun op rest => decodeOperand_word rfl op w rest
theorem eorAbx (w : Word) : Statement (.eorAbx w) := fun op rest => decodeOperand_word rfl op w rest
theorem eorAby (w : Word) : Statement (.eorAby w) := fun op rest => decodeOperand_word rfl op w rest
theorem eorIzx (b : Byte) : Statement (.eorIzx b) := fun _ _ => rfl
theorem eorIzy (b : Byte) : Statement (.eorIzy b) := fun _ _ => rfl
theorem aslAcc : Statement .aslAcc := fun _ _ => rfl
theorem aslZp (b : Byte) : Statement (.aslZp b) := fun _ _ => rfl
theorem aslZpx (b : Byte) : Statement (.aslZpx b) := fun _ _ => rfl
theorem aslAb (w : Word) : Statement (.aslAb w) := fun op rest => decodeOperand_word rfl op w rest
theorem aslAbx (w : Word) : Statement (.aslAbx w) := fun op rest => decodeOperand_word rfl op w rest
theorem lsrAcc : Statement .lsrAcc := fun _ _ => rfl
theorem lsrZp (b : Byte) : Statement (.lsrZp b) := fun _ _ => rfl
theorem lsrZpx (b : Byte) : Statement (.lsrZpx b) := fun _ _ => rfl
theorem lsrAb (w : Word) : Statement (.lsrAb w) := fun op rest => decodeOperand_word rfl op w rest
theorem lsrAbx (w : Word) : Statement (.lsrAbx w) := fun op rest => decodeOperand_word rfl op w rest
theorem rolAcc : Statement .rolAcc := fun _ _ => rfl
theorem rolZp (b : Byte) : Statement (.rolZp b) := fun _ _ => rfl
theorem rolZpx (b : Byte) : Statement (.rolZpx b) := fun _ _ => rfl
theorem rolAb (w : Word) : Statement (.rolAb w) := fun op rest => decodeOperand_word rfl op w rest
theorem rolAbx (w : Word) : Statement (.rolAbx w) := fun op rest => decodeOperand_word rfl op w rest
theorem rorAcc : Statement .rorAcc := fun _ _ => rfl
theorem rorZp (b : Byte) : Statement (.rorZp b) := fun _ _ => rfl
theorem rorZpx (b : Byte) : Statement (.rorZpx b) := fun _ _ => rfl
theorem rorAb (w : Word) : Statement (.rorAb w) := fun op rest => decodeOperand_word rfl op w rest
theorem rorAbx (w : Word) : Statement (.rorAbx w) := fun op rest => decodeOperand_word rfl op w rest

end Sys2Proof.Laws.OperandRebuild
end

