-- ==== Sys2Proof/Tests/Slice0.lean ====
section
/-! SUPPORT. The tests: the smoke test of WellFormed, every constructor's decoding from a word of the spec, one step per
instruction from the vectors of 95_test_vectors.md and the examples of 47_alu_extension.md, and for every statement with
hypotheses a state and operands that meet them. -/

open Sys2Proof Sys2Proof.Machine

namespace Sys2Proof.Tests.Slice0

/-- A small machine: code injected at PC, and some cells; EXT_ALU as given, everything else as after reset. -/
def small (ext : Bool) (pc : Word) (code : List Byte) (cells : List (Word × Byte)) : State :=
  cells.foldl (fun s c => inject c.1 c.2 s)
    (injectBytes pc code { State.reset with pc := pc, config := { extAlu := ext } })

/-- The step from `s` gives a next state in which `p` holds. -/
def after (s : State) (p : State → Bool) : Bool :=
  match step s with
  | .next t    => p t
  | .fault _   => false
  | .refused _ => false

/-! ### WellFormed refuses -/

/-- Every instruction of the extension is ill-formed when EXT_ALU is false (47_alu_extension.md R200). -/
theorem test_wf_refuses_extension_off :
    ((Opcode.all.filter Opcode.isExtension).all fun n => !(n.instr 0 0).wf {}) = true := by decide

/-- Every instruction is well-formed when EXT_ALU is true. -/
theorem test_wf_accepts_extension_on :
    (Opcode.all.all fun n => (n.instr 0 0).wf Config.tableConfig) = true := by decide

/-- An OPC that gives two names one byte is refused (00_scope.md R5). -/
theorem test_wf_refuses_shared_byte : ({ opc := [(.ldaIm, 0x60)] } : Config).wf = false := by decide +kernel

/-- A byte that two names of a disabled part share is no conflict. -/
theorem test_wf_ignores_disabled_rows : ({ opc := [(.adcIm, 0x60)] } : Config).wf = true := by decide +kernel

/-! ### Decoding: the words of the spec's rules -/

/-- R140 to R147: the words of LDA. -/
theorem test_decode_lda :
    [[0xA9, 0x5C], [0xA5, 0x5C], [0xB5, 0x5C], [0xAD, 0x34, 0x12], [0xBD, 0x34, 0x12], [0xB9, 0x34, 0x12],
       [0xA1, 0x5C], [0xB1, 0x5C]].map
      (decode Config.tableConfig) =
    [.instr (.ldaIm 0x5C) [], .instr (.ldaZp 0x5C) [], .instr (.ldaZpx 0x5C) [], .instr (.ldaAb 0x1234) [],
       .instr (.ldaAbx 0x1234) [], .instr (.ldaAby 0x1234) [], .instr (.ldaIzx 0x5C) [],
       .instr (.ldaIzy 0x5C) []] := by
  decide

/-- R150 to R156: the words of STA. -/
theorem test_decode_sta :
    [[0x85, 0x5C], [0x95, 0x5C], [0x8D, 0x34, 0x12], [0x9D, 0x34, 0x12], [0x99, 0x34, 0x12], [0x81, 0x5C],
       [0x91, 0x5C]].map
      (decode Config.tableConfig) =
    [.instr (.staZp 0x5C) [], .instr (.staZpx 0x5C) [], .instr (.staAb 0x1234) [], .instr (.staAbx 0x1234) [],
       .instr (.staAby 0x1234) [], .instr (.staIzx 0x5C) [], .instr (.staIzy 0x5C) []] := by
  decide

/-- R160 to R161: the words of JMP. -/
theorem test_decode_jmp :
    [[0x4C, 0x34, 0x12], [0x6C, 0x34, 0x12]].map
      (decode Config.tableConfig) =
    [.instr (.jmpAb 0x1234) [], .instr (.jmpIn 0x1234) []] := by
  decide

/-- R162: the word of JSR. -/
theorem test_decode_jsr :
    [[0x20, 0x34, 0x12]].map
      (decode Config.tableConfig) =
    [.instr (.jsrAb 0x1234) []] := by
  decide

/-- R163: the word of RTS. -/
theorem test_decode_rts :
    [[0x60]].map
      (decode Config.tableConfig) =
    [.instr .rts []] := by
  decide

/-- R220 to R227: the words of ADC. -/
theorem test_decode_adc :
    [[0x69, 0x5C], [0x65, 0x5C], [0x75, 0x5C], [0x6D, 0x34, 0x12], [0x7D, 0x34, 0x12], [0x79, 0x34, 0x12],
       [0x61, 0x5C], [0x71, 0x5C]].map
      (decode Config.tableConfig) =
    [.instr (.adcIm 0x5C) [], .instr (.adcZp 0x5C) [], .instr (.adcZpx 0x5C) [], .instr (.adcAb 0x1234) [],
       .instr (.adcAbx 0x1234) [], .instr (.adcAby 0x1234) [], .instr (.adcIzx 0x5C) [],
       .instr (.adcIzy 0x5C) []] := by
  decide

/-- R228 to R235: the words of SBC. -/
theorem test_decode_sbc :
    [[0xE9, 0x5C], [0xE5, 0x5C], [0xF5, 0x5C], [0xED, 0x34, 0x12], [0xFD, 0x34, 0x12], [0xF9, 0x34, 0x12],
       [0xE1, 0x5C], [0xF1, 0x5C]].map
      (decode Config.tableConfig) =
    [.instr (.sbcIm 0x5C) [], .instr (.sbcZp 0x5C) [], .instr (.sbcZpx 0x5C) [], .instr (.sbcAb 0x1234) [],
       .instr (.sbcAbx 0x1234) [], .instr (.sbcAby 0x1234) [], .instr (.sbcIzx 0x5C) [],
       .instr (.sbcIzy 0x5C) []] := by
  decide

/-- R236 to R243: the words of AND. -/
theorem test_decode_and :
    [[0x29, 0x5C], [0x25, 0x5C], [0x35, 0x5C], [0x2D, 0x34, 0x12], [0x3D, 0x34, 0x12], [0x39, 0x34, 0x12],
       [0x21, 0x5C], [0x31, 0x5C]].map
      (decode Config.tableConfig) =
    [.instr (.andIm 0x5C) [], .instr (.andZp 0x5C) [], .instr (.andZpx 0x5C) [], .instr (.andAb 0x1234) [],
       .instr (.andAbx 0x1234) [], .instr (.andAby 0x1234) [], .instr (.andIzx 0x5C) [],
       .instr (.andIzy 0x5C) []] := by
  decide

/-- R244 to R251: the words of ORA. -/
theorem test_decode_ora :
    [[0x09, 0x5C], [0x05, 0x5C], [0x15, 0x5C], [0x0D, 0x34, 0x12], [0x1D, 0x34, 0x12], [0x19, 0x34, 0x12],
       [0x01, 0x5C], [0x11, 0x5C]].map
      (decode Config.tableConfig) =
    [.instr (.oraIm 0x5C) [], .instr (.oraZp 0x5C) [], .instr (.oraZpx 0x5C) [], .instr (.oraAb 0x1234) [],
       .instr (.oraAbx 0x1234) [], .instr (.oraAby 0x1234) [], .instr (.oraIzx 0x5C) [],
       .instr (.oraIzy 0x5C) []] := by
  decide

/-- R252 to R259: the words of EOR. -/
theorem test_decode_eor :
    [[0x49, 0x5C], [0x45, 0x5C], [0x55, 0x5C], [0x4D, 0x34, 0x12], [0x5D, 0x34, 0x12], [0x59, 0x34, 0x12],
       [0x41, 0x5C], [0x51, 0x5C]].map
      (decode Config.tableConfig) =
    [.instr (.eorIm 0x5C) [], .instr (.eorZp 0x5C) [], .instr (.eorZpx 0x5C) [], .instr (.eorAb 0x1234) [],
       .instr (.eorAbx 0x1234) [], .instr (.eorAby 0x1234) [], .instr (.eorIzx 0x5C) [],
       .instr (.eorIzy 0x5C) []] := by
  decide

/-- R260 to R264: the words of ASL. -/
theorem test_decode_asl :
    [[0x0A], [0x06, 0x5C], [0x16, 0x5C], [0x0E, 0x34, 0x12], [0x1E, 0x34, 0x12]].map
      (decode Config.tableConfig) =
    [.instr .aslAcc [], .instr (.aslZp 0x5C) [], .instr (.aslZpx 0x5C) [], .instr (.aslAb 0x1234) [],
       .instr (.aslAbx 0x1234) []] := by
  decide

/-- R265 to R269: the words of LSR. -/
theorem test_decode_lsr :
    [[0x4A], [0x46, 0x5C], [0x56, 0x5C], [0x4E, 0x34, 0x12], [0x5E, 0x34, 0x12]].map
      (decode Config.tableConfig) =
    [.instr .lsrAcc [], .instr (.lsrZp 0x5C) [], .instr (.lsrZpx 0x5C) [], .instr (.lsrAb 0x1234) [],
       .instr (.lsrAbx 0x1234) []] := by
  decide

/-- R270 to R274: the words of ROL. -/
theorem test_decode_rol :
    [[0x2A], [0x26, 0x5C], [0x36, 0x5C], [0x2E, 0x34, 0x12], [0x3E, 0x34, 0x12]].map
      (decode Config.tableConfig) =
    [.instr .rolAcc [], .instr (.rolZp 0x5C) [], .instr (.rolZpx 0x5C) [], .instr (.rolAb 0x1234) [],
       .instr (.rolAbx 0x1234) []] := by
  decide

/-- R275 to R279: the words of ROR. -/
theorem test_decode_ror :
    [[0x6A], [0x66, 0x5C], [0x76, 0x5C], [0x6E, 0x34, 0x12], [0x7E, 0x34, 0x12]].map
      (decode Config.tableConfig) =
    [.instr .rorAcc [], .instr (.rorZp 0x5C) [], .instr (.rorZpx 0x5C) [], .instr (.rorAb 0x1234) [],
       .instr (.rorAbx 0x1234) []] := by
  decide

/-- 30_encoding.md R86: a byte of no row is rejected by name; a list that ends early is rejected by name. -/
theorem test_decode_rejects :
    [[0x00], [0xEA, 0x01, 0x02], [0xA9], [0xAD, 0x34], []].map (decode Config.tableConfig) =
    [.reject (.unrecognised 0x00), .reject (.unrecognised 0xEA), .reject (.truncated 0xA9),
     .reject (.truncated 0xAD), .reject .empty] := by
  decide

/-- A table word counts its bits from the first byte. -/
theorem test_decode_table_word :
    [decodeTableWord 8 0xA9, decodeTableWord 16 0x42A9, decodeTableWord 24 0x1234BD, decodeTableWord 8 0x1234BD,
     decodeTableWord 8 0x69, decodeTableWord 8 0x02] =
    [some (.ldaIm 0), some (.ldaIm 0x42), some (.ldaAbx 0x1234), some (.ldaAbx 0), some (.adcIm 0), none] := by
  decide

/-- A table word placed by withFetchWord is the next instruction, of the core and of the extension. -/
theorem test_fetch_word_runs :
    after (State.reset.withFetchWord 16 0x42A9) (fun t => t.a == 0x42 && t.pc == 0xFFFE) = true ∧
    after (State.reset.withFetchWord 16 0x5069) (fun t => t.a == 0x50 && t.pc == 0xFFFE) = true := by
  decide

/-! ### One step: the vectors of 95_test_vectors.md -/

/-- V-LDA-2: LDA_IM negative. -/
theorem test_v_lda_2 :
    after { small false 0x0200 [0xA9, 0x80] [] with flags := { Flags.cleared with z := true } }
      (fun t => t.pc == 0x0202 && t.a == 0x80 && !t.flags.z && t.flags.n && t.outcome == .done 2) = true := by
  decide

/-- V-LDA-5: LDA_IM at 0xFFFF, operand at 0x0000. -/
theorem test_v_lda_5 :
    after (small false 0xFFFF [0xA9, 0x42] [])
      (fun t => t.pc == 0x0001 && t.a == 0x42 && !t.flags.z && !t.flags.n && t.outcome == .done 2) = true := by
  decide

/-- V-LDA-6: LDA_ZP. -/
theorem test_v_lda_6 :
    after (small false 0x0200 [0xA5, 0x10] [(0x0010, 0x99)])
      (fun t => t.pc == 0x0202 && t.a == 0x99 && !t.flags.z && t.flags.n && t.outcome == .done 3) = true := by
  decide

/-- V-LDA-9: LDA_ZPX wraps in page 0. -/
theorem test_v_lda_9 :
    after { small false 0x0200 [0xB5, 0xF0] [(0x0010, 0x77), (0x0110, 0xEE)] with x := 0x20 }
      (fun t => t.pc == 0x0202 && t.a == 0x77 && !t.flags.z && !t.flags.n && t.outcome == .done 4) = true := by
  decide

/-- V-LDA-12: LDA_AB reads its own opcode. -/
theorem test_v_lda_12 :
    after (small false 0x0200 [0xAD, 0x00, 0x02] [])
      (fun t => t.pc == 0x0203 && t.a == 0xAD && !t.flags.z && t.flags.n && t.outcome == .done 4) = true := by
  decide

/-- V-LDA-15: LDA_ABX X=0. -/
theorem test_v_lda_15 :
    after { small false 0x0200 [0xBD, 0xFF, 0x12] [(0x12FF, 0x23)] with x := 0x00 }
      (fun t => t.pc == 0x0203 && t.a == 0x23 && !t.flags.z && !t.flags.n && t.outcome == .done 4) = true := by
  decide

/-- V-LDA-16: LDA_ABX wraps past 0xFFFF (cross). -/
theorem test_v_lda_16 :
    after { small false 0x0200 [0xBD, 0xFF, 0xFF] [(0x0000, 0x24)] with x := 0x01 }
      (fun t => t.pc == 0x0203 && t.a == 0x24 && !t.flags.z && !t.flags.n && t.outcome == .done 5) = true := by
  decide

/-- V-LDA-18: LDA_ABY cross. -/
theorem test_v_lda_18 :
    after { small false 0x0200 [0xB9, 0x01, 0x12] [(0x1300, 0x00)] with y := 0xFF, flags := { Flags.cleared with n := true } }
      (fun t => t.pc == 0x0203 && t.a == 0x00 && t.flags.z && !t.flags.n && t.outcome == .done 5) = true := by
  decide

/-- V-LDA-19: LDA_ABY ignores X. -/
theorem test_v_lda_19 :
    after { small false 0x0200 [0xB9, 0x00, 0x12] [(0x1201, 0x05), (0x1277, 0xEE)] with x := 0x77, y := 0x01 }
      (fun t => t.pc == 0x0203 && t.a == 0x05 && !t.flags.z && !t.flags.n && t.outcome == .done 4) = true := by
  decide

/-- V-LDA-21: LDA_IZX pointer index wraps. -/
theorem test_v_lda_21 :
    after { small false 0x0200 [0xA1, 0xFE] [(0x0001, 0x78), (0x0002, 0x56), (0x5678, 0x81)] with x := 0x03 }
      (fun t => t.pc == 0x0202 && t.a == 0x81 && !t.flags.z && t.flags.n && t.outcome == .done 6) = true := by
  decide

/-- V-LDA-22: LDA_IZX pointer at 0xFF: high byte from 0x0100. -/
theorem test_v_lda_22 :
    after { small false 0x0200 [0xA1, 0xFF] [(0x0000, 0x99), (0x00FF, 0x34), (0x0100, 0x12), (0x1234, 0x11), (0x9934, 0xEE)] with x := 0x00 }
      (fun t => t.pc == 0x0202 && t.a == 0x11 && !t.flags.z && !t.flags.n && t.outcome == .done 6) = true := by
  decide

/-- V-LDA-24: LDA_IZY cross. -/
theorem test_v_lda_24 :
    after { small false 0x0200 [0xB1, 0x20] [(0x0020, 0xFF), (0x0021, 0x03), (0x0401, 0x00)] with y := 0x02 }
      (fun t => t.pc == 0x0202 && t.a == 0x00 && t.flags.z && !t.flags.n && t.outcome == .done 6) = true := by
  decide

/-- V-LDA-25: LDA_IZY pointer at 0xFF: high byte from 0x0100. -/
theorem test_v_lda_25 :
    after { small false 0x0200 [0xB1, 0xFF] [(0x0000, 0x70), (0x00FF, 0x00), (0x0100, 0x20), (0x2001, 0x66), (0x7001, 0xEE)] with y := 0x01 }
      (fun t => t.pc == 0x0202 && t.a == 0x66 && !t.flags.z && !t.flags.n && t.outcome == .done 5) = true := by
  decide

/-- V-STA-1: STA_ZP; flags kept. -/
theorem test_v_sta_1 :
    after { small false 0x0200 [0x85, 0x10] [] with a := 0x00, flags := { Flags.cleared with n := true } }
      (fun t => t.pc == 0x0202 && t.a == 0x00 && !t.flags.z && t.flags.n && peek 0x0010 t == 0x00 && t.outcome == .done 3) = true := by
  decide

/-- V-STA-3: STA_ZPX wraps. -/
theorem test_v_sta_3 :
    after { small false 0x0200 [0x95, 0xF0] [] with a := 0xAB, x := 0x20 }
      (fun t => t.pc == 0x0202 && t.a == 0xAB && !t.flags.z && !t.flags.n && peek 0x0010 t == 0xAB && t.outcome == .done 4) = true := by
  decide

/-- V-STA-5: STA_AB to 0xFFFF. -/
theorem test_v_sta_5 :
    after { small false 0x0200 [0x8D, 0xFF, 0xFF] [] with a := 0x01 }
      (fun t => t.pc == 0x0203 && t.a == 0x01 && !t.flags.z && !t.flags.n && peek 0xFFFF t == 0x01 && t.outcome == .done 4) = true := by
  decide

/-- V-STA-7: STA_ABX cross: 5 cycles. -/
theorem test_v_sta_7 :
    after { small false 0x0200 [0x9D, 0xF0, 0x12] [] with a := 0x12, x := 0x20 }
      (fun t => t.pc == 0x0203 && t.a == 0x12 && !t.flags.z && !t.flags.n && peek 0x1310 t == 0x12 && t.outcome == .done 5) = true := by
  decide

/-- V-STA-9: STA_ABY cross. -/
theorem test_v_sta_9 :
    after { small false 0x0200 [0x99, 0xFF, 0x02] [] with a := 0x14, y := 0x02 }
      (fun t => t.pc == 0x0203 && t.a == 0x14 && !t.flags.z && !t.flags.n && peek 0x0301 t == 0x14 && t.outcome == .done 5) = true := by
  decide

/-- V-STA-12: STA_IZY cross: 6 cycles. -/
theorem test_v_sta_12 :
    after { small false 0x0200 [0x91, 0x40] [(0x0040, 0xFF), (0x0041, 0x50)] with a := 0x17, y := 0x01 }
      (fun t => t.pc == 0x0202 && t.a == 0x17 && !t.flags.z && !t.flags.n && peek 0x5100 t == 0x17 && t.outcome == .done 6) = true := by
  decide

/-- V-STA-13: STA_AB overwrites the next opcode. -/
theorem test_v_sta_13 :
    after { small false 0x0200 [0x8D, 0x03, 0x02] [] with a := 0xA9 }
      (fun t => t.pc == 0x0203 && t.a == 0xA9 && !t.flags.z && !t.flags.n && peek 0x0203 t == 0xA9 && t.outcome == .done 4) = true := by
  decide

/-- V-STA-14: STA_IZX overwrites its own pointer. -/
theorem test_v_sta_14 :
    after { small false 0x0200 [0x81, 0x30] [(0x0030, 0x30), (0x0031, 0x00)] with a := 0x77, x := 0x00 }
      (fun t => t.pc == 0x0202 && t.a == 0x77 && !t.flags.z && !t.flags.n && peek 0x0030 t == 0x77 && t.outcome == .done 6) = true := by
  decide

/-- V-JMP-3: JMP_AB operand straddles 0xFFFF. -/
theorem test_v_jmp_3 :
    after (small false 0xFFFE [0x4C, 0x34, 0x12] [])
      (fun t => t.pc == 0x1234 && t.a == 0x00 && !t.flags.z && !t.flags.n && t.outcome == .done 3) = true := by
  decide

/-- V-JMP-5: JMP_IN pointer at 0x02FF: high byte from 0x0300. -/
theorem test_v_jmp_5 :
    after (small false 0x0200 [0x6C, 0xFF, 0x02] [(0x0200, 0x6C), (0x02FF, 0x78), (0x0300, 0x56)])
      (fun t => t.pc == 0x5678 && t.a == 0x00 && !t.flags.z && !t.flags.n && t.outcome == .done 5) = true := by
  decide

/-- V-JMP-6: JMP_IN pointer at 0xFFFF: high byte from 0x0000. -/
theorem test_v_jmp_6 :
    after (small false 0x0200 [0x6C, 0xFF, 0xFF] [(0x0000, 0x22), (0xFFFF, 0x11)])
      (fun t => t.pc == 0x2211 && t.a == 0x00 && !t.flags.z && !t.flags.n && t.outcome == .done 5) = true := by
  decide

/-- V-JSR-3: JSR_AB SP=0xFF: high byte to 0x0200. -/
theorem test_v_jsr_3 :
    after { small false 0x0400 [0x20, 0x00, 0x80] [] with sp := 0xFF }
      (fun t => t.pc == 0x8000 && t.a == 0x00 && t.sp == 0x01 && !t.flags.z && !t.flags.n && peek 0x01FF t == 0x02 && peek 0x0200 t == 0x04 && t.outcome == .done 6) = true := by
  decide

/-- V-JSR-5: JSR_AB in stack page overwrites its operand, still jumps to fetched target. -/
theorem test_v_jsr_5 :
    after { small false 0x0100 [0x20, 0x00, 0x80] [] with sp := 0x01 }
      (fun t => t.pc == 0x8000 && t.a == 0x00 && t.sp == 0x03 && !t.flags.z && !t.flags.n && peek 0x0101 t == 0x02 && peek 0x0102 t == 0x01 && t.outcome == .done 6) = true := by
  decide

/-- V-RTS-2: RTS with SP=0: reads 0x01FE, 0x01FF. -/
theorem test_v_rts_2 :
    after { small false 0x0200 [0x60] [(0x01FE, 0x33), (0x01FF, 0x44)] with sp := 0x00 }
      (fun t => t.pc == 0x4434 && t.a == 0x00 && t.sp == 0xFE && !t.flags.z && !t.flags.n && t.outcome == .done 6) = true := by
  decide

/-- V-RTS-4: RTS word 0xFFFF: PC wraps to 0. -/
theorem test_v_rts_4 :
    after { small false 0x0200 [0x60] [(0x0100, 0xFF), (0x0101, 0xFF)] with sp := 0x02 }
      (fun t => t.pc == 0x0000 && t.a == 0x00 && t.sp == 0x00 && !t.flags.z && !t.flags.n && t.outcome == .done 6) = true := by
  decide

/-- V-UNH-1: byte 0x00. -/
theorem test_v_unh_1 :
    after { small false 0x0200 [0x00, 0xA9, 0x42] [] with a := 0x11, flags := { Flags.cleared with z := true } }
      (fun t => t.pc == 0x0201 && t.a == 0x11 && t.flags.z && !t.flags.n && t.outcome == .unhandled 0x00 0x0200 1) = true := by
  decide

/-- V-UNH-6: byte 0x69 with EXT_ALU false. -/
theorem test_v_unh_6 :
    after { small false 0x0200 [0x69, 0x01] [] with a := 0x01 }
      (fun t => t.pc == 0x0201 && t.a == 0x01 && !t.flags.z && !t.flags.n && t.outcome == .unhandled 0x69 0x0200 1) = true := by
  decide

/-! ### One step: the examples of 47_alu_extension.md -/

/-- R220, the example of ADC_IM. -/
theorem test_adc_im :
    after { small true 0x0200 [0x69, 0x50] [] with a := 0x50 }
      (fun t => t.pc == 0x0202 && t.a == 0xA0 && !t.flags.c && !t.flags.z && t.flags.v && t.flags.n && t.outcome == .done 2) = true := by
  decide

/-- R221, the example of ADC_ZP. -/
theorem test_adc_zp :
    after { small true 0x0200 [0x65, 0x10] [(0x0010, 0x01)] with a := 0xFF }
      (fun t => t.pc == 0x0202 && t.a == 0x00 && t.flags.c && t.flags.z && !t.flags.v && !t.flags.n && t.outcome == .done 3) = true := by
  decide

/-- R222, the example of ADC_ZPX. -/
theorem test_adc_zpx :
    after { small true 0x0200 [0x75, 0xF0] [(0x0010, 0x01)] with a := 0x01, x := 0x20, flags := { Flags.cleared with c := true } }
      (fun t => t.pc == 0x0202 && t.a == 0x03 && !t.flags.c && !t.flags.z && !t.flags.v && !t.flags.n && t.outcome == .done 4) = true := by
  decide

/-- R223, the example of ADC_AB. -/
theorem test_adc_ab :
    after { small true 0x0200 [0x6D, 0x34, 0x12] [(0x1234, 0x80)] with a := 0x80 }
      (fun t => t.pc == 0x0203 && t.a == 0x00 && t.flags.c && t.flags.z && t.flags.v && !t.flags.n && t.outcome == .done 4) = true := by
  decide

/-- R224, the example of ADC_ABX. -/
theorem test_adc_abx :
    after { small true 0x0200 [0x7D, 0xF0, 0x12] [(0x1310, 0x01)] with a := 0x7F, x := 0x20 }
      (fun t => t.pc == 0x0203 && t.a == 0x80 && !t.flags.c && !t.flags.z && t.flags.v && t.flags.n && t.outcome == .done 5) = true := by
  decide

/-- R225, the example of ADC_ABY. -/
theorem test_adc_aby :
    after { small true 0x0200 [0x79, 0x00, 0x12] [(0x1234, 0x00)] with a := 0x00, y := 0x34 }
      (fun t => t.pc == 0x0203 && t.a == 0x00 && !t.flags.c && t.flags.z && !t.flags.v && !t.flags.n && t.outcome == .done 4) = true := by
  decide

/-- R226, the example of ADC_IZX. -/
theorem test_adc_izx :
    after { small true 0x0200 [0x61, 0x20] [(0x0024, 0x00), (0x0025, 0x40), (0x4000, 0x90)] with a := 0xD0, x := 0x04 }
      (fun t => t.pc == 0x0202 && t.a == 0x60 && t.flags.c && !t.flags.z && t.flags.v && !t.flags.n && t.outcome == .done 6) = true := by
  decide

/-- R227, the example of ADC_IZY. -/
theorem test_adc_izy :
    after { small true 0x0200 [0x71, 0x20] [(0x0020, 0xFF), (0x0021, 0x03), (0x0401, 0x34)] with a := 0x12, y := 0x02, flags := { Flags.cleared with c := true } }
      (fun t => t.pc == 0x0202 && t.a == 0x47 && !t.flags.c && !t.flags.z && !t.flags.v && !t.flags.n && t.outcome == .done 6) = true := by
  decide

/-- R228, the example of SBC_IM. -/
theorem test_sbc_im :
    after { small true 0x0200 [0xE9, 0xF0] [] with a := 0x50, flags := { Flags.cleared with c := true } }
      (fun t => t.pc == 0x0202 && t.a == 0x60 && !t.flags.c && !t.flags.z && !t.flags.v && !t.flags.n && t.outcome == .done 2) = true := by
  decide

/-- R229, the example of SBC_ZP. -/
theorem test_sbc_zp :
    after { small true 0x0200 [0xE5, 0x10] [(0x0010, 0x01)] with a := 0x00, flags := { Flags.cleared with c := true } }
      (fun t => t.pc == 0x0202 && t.a == 0xFF && !t.flags.c && !t.flags.z && !t.flags.v && t.flags.n && t.outcome == .done 3) = true := by
  decide

/-- R230, the example of SBC_ZPX. -/
theorem test_sbc_zpx :
    after { small true 0x0200 [0xF5, 0xF0] [(0x0010, 0x05)] with a := 0x05, x := 0x20, flags := { Flags.cleared with c := true } }
      (fun t => t.pc == 0x0202 && t.a == 0x00 && t.flags.c && t.flags.z && !t.flags.v && !t.flags.n && t.outcome == .done 4) = true := by
  decide

/-- R231, the example of SBC_AB. -/
theorem test_sbc_ab :
    after { small true 0x0200 [0xED, 0x34, 0x12] [(0x1234, 0x01)] with a := 0x80, flags := { Flags.cleared with c := true } }
      (fun t => t.pc == 0x0203 && t.a == 0x7F && t.flags.c && !t.flags.z && t.flags.v && !t.flags.n && t.outcome == .done 4) = true := by
  decide

/-- R232, the example of SBC_ABX. -/
theorem test_sbc_abx :
    after { small true 0x0200 [0xFD, 0xF0, 0x12] [(0x1310, 0x30)] with a := 0x50, x := 0x20 }
      (fun t => t.pc == 0x0203 && t.a == 0x1F && t.flags.c && !t.flags.z && !t.flags.v && !t.flags.n && t.outcome == .done 5) = true := by
  decide

/-- R233, the example of SBC_ABY. -/
theorem test_sbc_aby :
    after { small true 0x0200 [0xF9, 0x00, 0x12] [(0x1234, 0xFF)] with a := 0x7F, y := 0x34, flags := { Flags.cleared with c := true } }
      (fun t => t.pc == 0x0203 && t.a == 0x80 && !t.flags.c && !t.flags.z && t.flags.v && t.flags.n && t.outcome == .done 4) = true := by
  decide

/-- R234, the example of SBC_IZX. -/
theorem test_sbc_izx :
    after { small true 0x0200 [0xE1, 0x20] [(0x0024, 0x00), (0x0025, 0x40), (0x4000, 0x70)] with a := 0xD0, x := 0x04, flags := { Flags.cleared with c := true } }
      (fun t => t.pc == 0x0202 && t.a == 0x60 && t.flags.c && !t.flags.z && t.flags.v && !t.flags.n && t.outcome == .done 6) = true := by
  decide

/-- R235, the example of SBC_IZY. -/
theorem test_sbc_izy :
    after { small true 0x0200 [0xF1, 0x20] [(0x0020, 0xFF), (0x0021, 0x03), (0x0401, 0x20)] with a := 0x40, y := 0x02, flags := { Flags.cleared with c := true } }
      (fun t => t.pc == 0x0202 && t.a == 0x20 && t.flags.c && !t.flags.z && !t.flags.v && !t.flags.n && t.outcome == .done 6) = true := by
  decide

/-- R236, the example of AND_IM. -/
theorem test_and_im :
    after { small true 0x0200 [0x29, 0x3C] [] with a := 0xF0 }
      (fun t => t.pc == 0x0202 && t.a == 0x30 && !t.flags.z && !t.flags.n && t.outcome == .done 2) = true := by
  decide

/-- R237, the example of AND_ZP. -/
theorem test_and_zp :
    after { small true 0x0200 [0x25, 0x10] [(0x0010, 0x80)] with a := 0xFF, flags := { Flags.cleared with c := true } }
      (fun t => t.pc == 0x0202 && t.a == 0x80 && !t.flags.z && t.flags.n && t.outcome == .done 3) = true := by
  decide

/-- R238, the example of AND_ZPX. -/
theorem test_and_zpx :
    after { small true 0x0200 [0x35, 0xF0] [(0x0010, 0xAA)] with a := 0x55, x := 0x20 }
      (fun t => t.pc == 0x0202 && t.a == 0x00 && t.flags.z && !t.flags.n && t.outcome == .done 4) = true := by
  decide

/-- R239, the example of AND_AB. -/
theorem test_and_ab :
    after { small true 0x0200 [0x2D, 0x34, 0x12] [(0x1234, 0xFF)] with a := 0x0F }
      (fun t => t.pc == 0x0203 && t.a == 0x0F && !t.flags.z && !t.flags.n && t.outcome == .done 4) = true := by
  decide

/-- R240, the example of AND_ABX. -/
theorem test_and_abx :
    after { small true 0x0200 [0x3D, 0xF0, 0x12] [(0x1310, 0x81)] with a := 0xC3, x := 0x20, flags := { Flags.cleared with c := true } }
      (fun t => t.pc == 0x0203 && t.a == 0x81 && !t.flags.z && t.flags.n && t.outcome == .done 5) = true := by
  decide

/-- R241, the example of AND_ABY. -/
theorem test_and_aby :
    after { small true 0x0200 [0x39, 0x00, 0x12] [(0x1234, 0xFF)] with a := 0x00, y := 0x34 }
      (fun t => t.pc == 0x0203 && t.a == 0x00 && t.flags.z && !t.flags.n && t.outcome == .done 4) = true := by
  decide

/-- R242, the example of AND_IZX. -/
theorem test_and_izx :
    after { small true 0x0200 [0x21, 0x20] [(0x0024, 0x00), (0x0025, 0x40), (0x4000, 0x18)] with a := 0x7E, x := 0x04 }
      (fun t => t.pc == 0x0202 && t.a == 0x18 && !t.flags.z && !t.flags.n && t.outcome == .done 6) = true := by
  decide

/-- R243, the example of AND_IZY. -/
theorem test_and_izy :
    after { small true 0x0200 [0x31, 0x20] [(0x0020, 0xFF), (0x0021, 0x03), (0x0401, 0xFF)] with a := 0xFF, y := 0x02, flags := { Flags.cleared with c := true } }
      (fun t => t.pc == 0x0202 && t.a == 0xFF && !t.flags.z && t.flags.n && t.outcome == .done 6) = true := by
  decide

/-- R244, the example of ORA_IM. -/
theorem test_ora_im :
    after { small true 0x0200 [0x09, 0x0C] [] with a := 0xF0 }
      (fun t => t.pc == 0x0202 && t.a == 0xFC && !t.flags.z && t.flags.n && t.outcome == .done 2) = true := by
  decide

/-- R245, the example of ORA_ZP. -/
theorem test_ora_zp :
    after { small true 0x0200 [0x05, 0x10] [(0x0010, 0x00)] with a := 0x00, flags := { Flags.cleared with c := true } }
      (fun t => t.pc == 0x0202 && t.a == 0x00 && t.flags.z && !t.flags.n && t.outcome == .done 3) = true := by
  decide

/-- R246, the example of ORA_ZPX. -/
theorem test_ora_zpx :
    after { small true 0x0200 [0x15, 0xF0] [(0x0010, 0xAA)] with a := 0x55, x := 0x20 }
      (fun t => t.pc == 0x0202 && t.a == 0xFF && !t.flags.z && t.flags.n && t.outcome == .done 4) = true := by
  decide

/-- R247, the example of ORA_AB. -/
theorem test_ora_ab :
    after { small true 0x0200 [0x0D, 0x34, 0x12] [(0x1234, 0x02)] with a := 0x01 }
      (fun t => t.pc == 0x0203 && t.a == 0x03 && !t.flags.z && !t.flags.n && t.outcome == .done 4) = true := by
  decide

/-- R248, the example of ORA_ABX. -/
theorem test_ora_abx :
    after { small true 0x0200 [0x1D, 0xF0, 0x12] [(0x1310, 0x00)] with a := 0x80, x := 0x20, flags := { Flags.cleared with c := true } }
      (fun t => t.pc == 0x0203 && t.a == 0x80 && !t.flags.z && t.flags.n && t.outcome == .done 5) = true := by
  decide

/-- R249, the example of ORA_ABY. -/
theorem test_ora_aby :
    after { small true 0x0200 [0x19, 0x00, 0x12] [(0x1234, 0x7F)] with a := 0x00, y := 0x34 }
      (fun t => t.pc == 0x0203 && t.a == 0x7F && !t.flags.z && !t.flags.n && t.outcome == .done 4) = true := by
  decide

/-- R250, the example of ORA_IZX. -/
theorem test_ora_izx :
    after { small true 0x0200 [0x01, 0x20] [(0x0024, 0x00), (0x0025, 0x40), (0x4000, 0x01)] with a := 0x10, x := 0x04 }
      (fun t => t.pc == 0x0202 && t.a == 0x11 && !t.flags.z && !t.flags.n && t.outcome == .done 6) = true := by
  decide

/-- R251, the example of ORA_IZY. -/
theorem test_ora_izy :
    after { small true 0x0200 [0x11, 0x20] [(0x0020, 0xFF), (0x0021, 0x03), (0x0401, 0xF0)] with a := 0x0F, y := 0x02, flags := { Flags.cleared with c := true } }
      (fun t => t.pc == 0x0202 && t.a == 0xFF && !t.flags.z && t.flags.n && t.outcome == .done 6) = true := by
  decide

/-- R252, the example of EOR_IM. -/
theorem test_eor_im :
    after { small true 0x0200 [0x49, 0x0F] [] with a := 0xFF }
      (fun t => t.pc == 0x0202 && t.a == 0xF0 && !t.flags.z && t.flags.n && t.outcome == .done 2) = true := by
  decide

/-- R253, the example of EOR_ZP. -/
theorem test_eor_zp :
    after { small true 0x0200 [0x45, 0x10] [(0x0010, 0xAA)] with a := 0xAA, flags := { Flags.cleared with c := true } }
      (fun t => t.pc == 0x0202 && t.a == 0x00 && t.flags.z && !t.flags.n && t.outcome == .done 3) = true := by
  decide

/-- R254, the example of EOR_ZPX. -/
theorem test_eor_zpx :
    after { small true 0x0200 [0x55, 0xF0] [(0x0010, 0xAA)] with a := 0x55, x := 0x20 }
      (fun t => t.pc == 0x0202 && t.a == 0xFF && !t.flags.z && t.flags.n && t.outcome == .done 4) = true := by
  decide

/-- R255, the example of EOR_AB. -/
theorem test_eor_ab :
    after { small true 0x0200 [0x4D, 0x34, 0x12] [(0x1234, 0x01)] with a := 0x80 }
      (fun t => t.pc == 0x0203 && t.a == 0x81 && !t.flags.z && t.flags.n && t.outcome == .done 4) = true := by
  decide

/-- R256, the example of EOR_ABX. -/
theorem test_eor_abx :
    after { small true 0x0200 [0x5D, 0xF0, 0x12] [(0x1310, 0xFF)] with a := 0x7F, x := 0x20, flags := { Flags.cleared with c := true } }
      (fun t => t.pc == 0x0203 && t.a == 0x80 && !t.flags.z && t.flags.n && t.outcome == .done 5) = true := by
  decide

/-- R257, the example of EOR_ABY. -/
theorem test_eor_aby :
    after { small true 0x0200 [0x59, 0x00, 0x12] [(0x1234, 0x00)] with a := 0x00, y := 0x34 }
      (fun t => t.pc == 0x0203 && t.a == 0x00 && t.flags.z && !t.flags.n && t.outcome == .done 4) = true := by
  decide

/-- R258, the example of EOR_IZX. -/
theorem test_eor_izx :
    after { small true 0x0200 [0x41, 0x20] [(0x0024, 0x00), (0x0025, 0x40), (0x4000, 0xC3)] with a := 0x3C, x := 0x04 }
      (fun t => t.pc == 0x0202 && t.a == 0xFF && !t.flags.z && t.flags.n && t.outcome == .done 6) = true := by
  decide

/-- R259, the example of EOR_IZY. -/
theorem test_eor_izy :
    after { small true 0x0200 [0x51, 0x20] [(0x0020, 0xFF), (0x0021, 0x03), (0x0401, 0x34)] with a := 0x12, y := 0x02, flags := { Flags.cleared with c := true } }
      (fun t => t.pc == 0x0202 && t.a == 0x26 && !t.flags.z && !t.flags.n && t.outcome == .done 6) = true := by
  decide

/-- R260, the example of ASL_ACC. -/
theorem test_asl_acc :
    after { small true 0x0200 [0x0A] [] with a := 0x81 }
      (fun t => t.pc == 0x0201 && t.a == 0x02 && t.flags.c && !t.flags.z && !t.flags.n && t.outcome == .done 2) = true := by
  decide

/-- R261, the example of ASL_ZP. -/
theorem test_asl_zp :
    after { small true 0x0200 [0x06, 0x10] [(0x0010, 0x40)] with flags := { Flags.cleared with c := true } }
      (fun t => t.pc == 0x0202 && !t.flags.c && !t.flags.z && t.flags.n && peek 0x0010 t == 0x80 && t.outcome == .done 5) = true := by
  decide

/-- R262, the example of ASL_ZPX. -/
theorem test_asl_zpx :
    after { small true 0x0200 [0x16, 0xF0] [(0x0010, 0x80)] with x := 0x20 }
      (fun t => t.pc == 0x0202 && t.flags.c && t.flags.z && !t.flags.n && peek 0x0010 t == 0x00 && t.outcome == .done 6) = true := by
  decide

/-- R263, the example of ASL_AB. -/
theorem test_asl_ab :
    after { small true 0x0200 [0x0E, 0x34, 0x12] [(0x1234, 0x01)] with flags := { Flags.cleared with c := true } }
      (fun t => t.pc == 0x0203 && !t.flags.c && !t.flags.z && !t.flags.n && peek 0x1234 t == 0x02 && t.outcome == .done 6) = true := by
  decide

/-- R264, the example of ASL_ABX. -/
theorem test_asl_abx :
    after { small true 0x0200 [0x1E, 0xF0, 0x12] [(0x1310, 0xFF)] with x := 0x20 }
      (fun t => t.pc == 0x0203 && t.flags.c && !t.flags.z && t.flags.n && peek 0x1310 t == 0xFE && t.outcome == .done 7) = true := by
  decide

/-- R265, the example of LSR_ACC. -/
theorem test_lsr_acc :
    after { small true 0x0200 [0x4A] [] with a := 0x01 }
      (fun t => t.pc == 0x0201 && t.a == 0x00 && t.flags.c && t.flags.z && !t.flags.n && t.outcome == .done 2) = true := by
  decide

/-- R266, the example of LSR_ZP. -/
theorem test_lsr_zp :
    after { small true 0x0200 [0x46, 0x10] [(0x0010, 0x80)] with flags := { Flags.cleared with c := true } }
      (fun t => t.pc == 0x0202 && !t.flags.c && !t.flags.z && !t.flags.n && peek 0x0010 t == 0x40 && t.outcome == .done 5) = true := by
  decide

/-- R267, the example of LSR_ZPX. -/
theorem test_lsr_zpx :
    after { small true 0x0200 [0x56, 0xF0] [(0x0010, 0x03)] with x := 0x20 }
      (fun t => t.pc == 0x0202 && t.flags.c && !t.flags.z && !t.flags.n && peek 0x0010 t == 0x01 && t.outcome == .done 6) = true := by
  decide

/-- R268, the example of LSR_AB. -/
theorem test_lsr_ab :
    after { small true 0x0200 [0x4E, 0x34, 0x12] [(0x1234, 0x00)] with flags := { Flags.cleared with c := true } }
      (fun t => t.pc == 0x0203 && !t.flags.c && t.flags.z && !t.flags.n && peek 0x1234 t == 0x00 && t.outcome == .done 6) = true := by
  decide

/-- R269, the example of LSR_ABX. -/
theorem test_lsr_abx :
    after { small true 0x0200 [0x5E, 0xF0, 0x12] [(0x1310, 0xFF)] with x := 0x20 }
      (fun t => t.pc == 0x0203 && t.flags.c && !t.flags.z && !t.flags.n && peek 0x1310 t == 0x7F && t.outcome == .done 7) = true := by
  decide

/-- R270, the example of ROL_ACC. -/
theorem test_rol_acc :
    after { small true 0x0200 [0x2A] [] with a := 0x80, flags := { Flags.cleared with c := true } }
      (fun t => t.pc == 0x0201 && t.a == 0x01 && t.flags.c && !t.flags.z && !t.flags.n && t.outcome == .done 2) = true := by
  decide

/-- R271, the example of ROL_ZP. -/
theorem test_rol_zp :
    after (small true 0x0200 [0x26, 0x10] [(0x0010, 0x40)])
      (fun t => t.pc == 0x0202 && !t.flags.c && !t.flags.z && t.flags.n && peek 0x0010 t == 0x80 && t.outcome == .done 5) = true := by
  decide

/-- R272, the example of ROL_ZPX. -/
theorem test_rol_zpx :
    after { small true 0x0200 [0x36, 0xF0] [(0x0010, 0x00)] with x := 0x20, flags := { Flags.cleared with c := true } }
      (fun t => t.pc == 0x0202 && !t.flags.c && !t.flags.z && !t.flags.n && peek 0x0010 t == 0x01 && t.outcome == .done 6) = true := by
  decide

/-- R273, the example of ROL_AB. -/
theorem test_rol_ab :
    after (small true 0x0200 [0x2E, 0x34, 0x12] [(0x1234, 0xFF)])
      (fun t => t.pc == 0x0203 && t.flags.c && !t.flags.z && t.flags.n && peek 0x1234 t == 0xFE && t.outcome == .done 6) = true := by
  decide

/-- R274, the example of ROL_ABX. -/
theorem test_rol_abx :
    after { small true 0x0200 [0x3E, 0xF0, 0x12] [(0x1310, 0x7F)] with x := 0x20, flags := { Flags.cleared with c := true } }
      (fun t => t.pc == 0x0203 && !t.flags.c && !t.flags.z && t.flags.n && peek 0x1310 t == 0xFF && t.outcome == .done 7) = true := by
  decide

/-- R275, the example of ROR_ACC. -/
theorem test_ror_acc :
    after { small true 0x0200 [0x6A] [] with a := 0x01 }
      (fun t => t.pc == 0x0201 && t.a == 0x00 && t.flags.c && t.flags.z && !t.flags.n && t.outcome == .done 2) = true := by
  decide

/-- R276, the example of ROR_ZP. -/
theorem test_ror_zp :
    after { small true 0x0200 [0x66, 0x10] [(0x0010, 0x00)] with flags := { Flags.cleared with c := true } }
      (fun t => t.pc == 0x0202 && !t.flags.c && !t.flags.z && t.flags.n && peek 0x0010 t == 0x80 && t.outcome == .done 5) = true := by
  decide

/-- R277, the example of ROR_ZPX. -/
theorem test_ror_zpx :
    after { small true 0x0200 [0x76, 0xF0] [(0x0010, 0x02)] with x := 0x20, flags := { Flags.cleared with c := true } }
      (fun t => t.pc == 0x0202 && !t.flags.c && !t.flags.z && t.flags.n && peek 0x0010 t == 0x81 && t.outcome == .done 6) = true := by
  decide

/-- R278, the example of ROR_AB. -/
theorem test_ror_ab :
    after (small true 0x0200 [0x6E, 0x34, 0x12] [(0x1234, 0xFF)])
      (fun t => t.pc == 0x0203 && t.flags.c && !t.flags.z && !t.flags.n && peek 0x1234 t == 0x7F && t.outcome == .done 6) = true := by
  decide

/-- R279, the example of ROR_ABX. -/
theorem test_ror_abx :
    after { small true 0x0200 [0x7E, 0xF0, 0x12] [(0x1310, 0x80)] with x := 0x20, flags := { Flags.cleared with c := true } }
      (fun t => t.pc == 0x0203 && !t.flags.c && !t.flags.z && t.flags.n && peek 0x1310 t == 0xC0 && t.outcome == .done 7) = true := by
  decide

/-! ### The datapath and the resets -/

/-- S5 and section 2.2 of 95_test_vectors.md. -/
theorem test_page_cross :
    pageCross 0x00FF (add16 0x00FF 0x01) = true ∧ pageCross 0x0010 (add16 0x0010 0x05) = false ∧
    pageCross 0xFFFF (add16 0xFFFF 0x01) = true ∧ pageCross 0xFF00 (add16 0xFF00 0xFF) = false := by
  decide

/-- Section 2.1 of 95_test_vectors.md. -/
theorem test_set_load_flags :
    ([0x00, 0x01, 0x7F, 0x80, 0xFF].map fun v =>
      ((setLoadFlags v State.reset).flags.z, (setLoadFlags v State.reset).flags.n)) =
    [(true, false), (false, false), (false, false), (false, true), (false, true)] := by
  decide

/-- The start state of V-RST-1. -/
def vRst1 : State :=
  { small false 0x9ABC [] [(0x0200, 0xA9), (0xFFFC, 0x4C)] with
    a := 0x12, x := 0x34, y := 0x56, sp := 0x78
    flags := { c := true, z := true, i := true, d := true, b := true, v := true, n := true } }

/-- V-RST-1, V-RST-2. -/
theorem test_resets :
    lightReset vRst1 = { State.reset with mem := vRst1.mem } ∧ fullReset vRst1 = State.reset := by
  decide

/-- V-RST-3. -/
theorem test_step_after_full_reset :
    after (fullReset vRst1) (fun t => t.outcome == .unhandled 0x00 0xFFFC 1 && t.pc == 0xFFFD) = true := by
  decide

/-- Program P1, the image after its reset. -/
def p1 : State := small false 0xFFFC [0x6C, 0x00, 0x03] [(0x0300, 0x03), (0x0301, 0x02), (0x0203, 0xA9), (0x0204, 0x42)]

/-- Section 2.9 of 95_test_vectors.md: `Run(6)` overspends by 1, `Run(4)` ends after one instruction. -/
theorem test_run :
    (match run 6 p1 with
      | .next (r, t) => r == -1 && t.a == 0x42 && t.pc == 0x0205
      | .fault _ | .refused _ => false) = true ∧
    (match run 4 p1 with
      | .next (r, t) => r == -1 && t.a == 0x00 && t.pc == 0x0203
      | .fault _ | .refused _ => false) = true := by
  decide

/-! ### Witnesses: for every statement with hypotheses, a state and operands that meet them -/

/-- What `after` decides, as the premise of a statement about a step. -/
theorem exists_of_after {s : State} {p : State → Bool} (h : after s p = true) : ∃ t, step s = .next t ∧ p t = true := by
  unfold after at h
  split at h
  · exact ⟨_, ‹_›, h⟩
  · cases h
  · cases h

/-- STA $0203 at 0x0200 with A = 0xA9 (V-STA-13). -/
def storing : State := { small false 0x0200 [0x8D, 0x03, 0x02] [] with a := 0xA9 }

/-- JSR $8000 at 0xFFFD with SP = 0xFF: the stack word straddles the stack page's end, the code the address space's. -/
def calling : State := { small false 0xFFFD [0x20, 0x00, 0x80] [] with sp := 0xFF }

/-- ASL $1234,X at 0x0200. -/
def shifting : State := small true 0x0200 [0x1E, 0x34, 0x12] []

theorem witness_FirstStepAfterFullResetIsDecodeFailure : vRst1.config.opc = [] ∧ shifting.config.opc = [] := by decide

theorem witness_SetLoadFlagsWritesOnlyZAndN :
    (0x00 : Byte) = 0 ∧
    (1 ≤ (0x01 : Byte).toNat ∧ (0x01 : Byte).toNat ≤ 0x7F) ∧ (1 ≤ (0x7F : Byte).toNat ∧ (0x7F : Byte).toNat ≤ 0x7F) ∧
    0x80 ≤ (0x80 : Byte).toNat ∧ 0x80 ≤ (0xFF : Byte).toNat ∧
    ¬ 1 ≤ (0x00 : Byte).toNat ∧ ¬ 0x80 ≤ (0x7F : Byte).toNat ∧ ¬ (0x80 : Byte).toNat ≤ 0x7F := by
  decide

/-- The memory is in canonical form and lists cells; the other addresses differ from the one written, at the end of the
address space too. -/
theorem witness_ByteAccessReadsAndWritesOneCell :
    calling.mem.wf = true ∧ calling.mem ≠ [] ∧ (0x0000 : Word) ≠ 0xFFFF := by decide

theorem witness_WordWriteThenReadReturnsWord :
    calling.mem.wf = true ∧ (0x0001 : Word) ≠ 0xFFFF ∧ (0x0001 : Word) ≠ 0xFFFF + 1 := by decide

theorem witness_FetchPrimitivesAdvancePc :
    (0x20 : Byte) = (fetchByte calling).1 ∧ (0x0020 : Word) = (fetchWord calling).1 ∧
    decode calling.config ((fetchByte (beginStep calling)).1 :: operandWindow (fetchByte (beginStep calling)).2) =
      .instr (.jsrAb 0x8000) [] := by
  decide

theorem witness_PullAfterPushReturnsWord : calling.mem.wf = true ∧ calling.sp = 0xFF := by decide

theorem witness_DecodeOfEncodeIsTheInstruction :
    ({} : Config).wf = true ∧ (Instr.jsrAb 0xFFFF).wf {} = true ∧
    Config.tableConfig.wf = true ∧ (Instr.rorAbx 0xFF00).wf Config.tableConfig = true ∧
    ({ opc := [(.ldaIm, 0x00)] } : Config).wf = true := by
  decide +kernel

theorem witness_DecodedBytesAreTheEncoding :
    decode Config.tableConfig [0xED, 0xFF, 0x00, 0x77] = .instr (.sbcAb 0x00FF) [0x77] := by decide

theorem witness_DecodeRejectsExactlyUnlistedBytes :
    decode {} [0x69, 0x01, 0x02] = .reject (.unrecognised 0x69) ∧
    ∀ n, ({} : Config).enables n = true → ({} : Config).opcodeByte n ≠ 0x69 :=
  ⟨by decide, Config.lookup_eq_none.1 (by decide)⟩

theorem witness_StepRunsTheDecodedInstruction :
    decode calling.config calling.codeBytes = .instr (.jsrAb 0x8000) [] ∧
    decode shifting.config shifting.codeBytes = .instr (.aslAbx 0x1234) [] := by
  decide

theorem witness_StepRunsTheEncodedInstruction :
    calling.config.wf = true ∧ (Instr.jsrAb 0x8000).wf calling.config = true ∧
    codeAt calling.mem calling.pc.toNat (encode calling.config (.jsrAb 0x8000)) = true := by
  decide +kernel

theorem witness_UnlistedByteIsDecodeFailure :
    ∀ n, State.reset.config.enables n = true →
      State.reset.config.opcodeByte n ≠ State.reset.mem.read State.reset.pc.toNat :=
  Config.lookup_eq_none.1 (by decide)

theorem witness_StepCostsTheTableTotal :
    decode storing.config storing.codeBytes = .instr (.staAb 0x0203) [] ∧ storing.config.extAlu = false := by decide

/-- The lists that the effect statements range over are as long as the modes: none is cut off by `zip`. -/
theorem witness_mode_lists (s : State) (b : Byte) (w : Word) :
    (modeRows s b w).length = 7 ∧ (rmwRows s b w).length = 4 := ⟨rfl, rfl⟩

theorem witness_StaWritesExactlyOneByte :
    storing.mem.wf = true ∧ (0x0204 : Word) ≠ (addrAB 0x0203 storing).1 := by decide

/-- The store of V-STA-13 goes to the byte after the instruction. -/
theorem witness_StoreIsSeenByTheNextFetch :
    storing.mem.wf = true ∧ after storing (fun t => (addrAB 0x0203 storing).1 == t.pc) = true := by decide

theorem witness_JsrEffects :
    calling.mem.wf = true ∧ (0x0100 : Word) ≠ stackAddr calling.sp ∧ (0x0100 : Word) ≠ stackAddr calling.sp + 1 := by
  decide

/-- The state that the JSR itself leaves meets the premises on the later state, and so does one with other registers. -/
theorem witness_RtsReturnsBehindTheJsr :
    calling.mem.wf = true ∧ ∃ t, exec (.jsrAb 0x8000) calling = .next t ∧
      ∃ u : State, u ≠ t ∧ u.sp = t.sp ∧
        u.mem.read (256 + calling.sp.toNat) = t.mem.read (256 + calling.sp.toNat) ∧
        u.mem.read (257 + calling.sp.toNat) = t.mem.read (257 + calling.sp.toNat) :=
  ⟨by decide, _, rfl, { (memWrite2 0x01FF 0xFFFE calling) with sp := 0x01, a := 0x77 }, by decide, by decide, by decide,
    by decide⟩

/-- No overflow, and overflow in both directions (R202, R203). -/
theorem witness_signed_overflow :
    (adcFn 0xFF 0x01 Flags.cleared).2.v = false ∧ (adcFn 0x50 0x50 Flags.cleared).2.v = true ∧
    (sbcFn 0x05 0x05 { Flags.cleared with c := true }).2.v = false ∧
    (sbcFn 0x50 0xB0 { Flags.cleared with c := true }).2.v = true ∧
    (sbcFn 0x80 0x01 { Flags.cleared with c := true }).2.v = true := by
  decide

theorem witness_MemoryShiftWritesExactlyOneByte :
    shifting.mem.wf = true ∧ (0x1235 : Word) ≠ (addrABXrmw 0x1234 shifting).1 := by decide

/-- The premise "step answers next" of the statements about every step. -/
theorem witness_step : (∃ t, step calling = .next t) ∧ (∃ t, step shifting = .next t) ∧ ∃ t, step State.reset = .next t :=
  ⟨(exists_of_after (p := fun _ => true) (by decide)).imp fun _ h => h.1,
    (exists_of_after (p := fun _ => true) (by decide)).imp fun _ h => h.1,
    (exists_of_after (p := fun _ => true) (by decide)).imp fun _ h => h.1⟩

theorem witness_NormativeStepWritesAAndFlagsOnlyByLda :
    storing.config.extAlu = false ∧ (∃ t, step storing = .next t) ∧
    ∀ n, storing.nextOpcode = some n → n.isLda = false := by
  refine ⟨by decide, (exists_of_after (p := fun _ => true) (by decide)).imp fun _ h => h.1, fun n hn => ?_⟩
  have h : storing.nextOpcode = some .staAb := by decide
  cases h.symm.trans hn
  rfl

theorem witness_SpMovesOnlyByJsrAndRts :
    after calling (fun t => t.sp == calling.sp + 2) = true ∧ calling.nextOpcode = some .jsrAb := by decide

theorem witness_StepsThatStoreNothingKeepMemory :
    (∃ t, step p1 = .next t) ∧ ∀ n, p1.nextOpcode = some n → n.storesToMemory = false := by
  refine ⟨(exists_of_after (p := fun _ => true) (by decide)).imp fun _ h => h.1, fun n hn => ?_⟩
  have h : p1.nextOpcode = some .jmpIn := by decide
  cases h.symm.trans hn
  rfl

theorem witness_PcGoesOnInSequence :
    storing.nextOpcode = some .staAb ∧ Opcode.staAb.loadsPc = false ∧ after storing (fun _ => true) = true := by decide

theorem witness_StepKeepsTheInvariant :
    storing.Inv ∧ shifting.Inv ∧ (∃ t, step storing = .next t) ∧ ∃ t, step shifting = .next t :=
  ⟨⟨by decide, by decide +kernel⟩, ⟨by decide, by decide +kernel⟩,
    (exists_of_after (p := fun _ => true) (by decide)).imp fun _ h => h.1,
    (exists_of_after (p := fun _ => true) (by decide)).imp fun _ h => h.1⟩

/-- A budget on each side of the loop test, and enough steps for it. -/
theorem witness_run_budget :
    (0 : Int) ≤ 0 ∧ (-3 : Int) ≤ 0 ∧ (0 : Int) < 1 ∧ (1 : Int) ≤ (1 : Nat) ∧ p1.config.extAlu = false := by decide

theorem witness_HostWritesChangeOnlyTheirTarget :
    calling.mem.wf = true ∧ (0x0000 : Word) ≠ 0xFFFF := by decide

end Sys2Proof.Tests.Slice0
end

section
/-! PROOF. How a step ends (00_scope.md R9): the outcome in terms of the signal, the cycles of a completed instruction,
and O23. -/

namespace Sys2Proof.Machine

/-- A step that signals nothing ended as Done, with its cycle count. -/
theorem State.outcome_of_signal_none {t : State} (h : t.signal = none) : t.outcome = .done t.cyc := by
  rw [State.outcome, h]

/-! ### The cycles of an instruction -/

/-- 40_engine_and_addressing.md R123, 47_alu_extension.md R207: no row of the cycle table is below 2; the page-cross cycle
only adds to it. -/
theorem two_le_cycleTotal (s : State) (i : Instr) : 2 ≤ cycleTotal s i := by
  unfold cycleTotal
  split <;> omega

/-- An instruction run after the opcode fetch ends the step as Done, with the total of its row in the cycle table: the
fetch's 1 cycle is part of it, and the fetch changes nothing that the total depends on. -/
theorem ExecEffect.outcome_eq {i : Instr} {s t : State} (h : ExecEffect i s.afterOpcodeFetch t) :
    t.outcome = .done (cycleTotal s i) := by
  have hcyc : t.cyc + 1 = 1 + cycleTotal s i := h.cyc
  have htotal : t.cyc = cycleTotal s i := by omega
  rw [State.outcome_of_signal_none h.signal, htotal]

/-! ### O23 -/

/-- Settles O23: a step either runs an instruction of the table, which ends as Done at its table total, or takes the
decode failure of a byte in no row. -/
theorem everyStepIsDoneOrUnhandled : Obligations.EveryStepIsDoneOrUnhandled := by
  intro s
  rcases step_effect s with ⟨i, -, t, -, hop, hstep, -, heffect⟩ | ⟨hop, hstep⟩
  · exact ⟨t, hstep, .inl ⟨i.opcode, cycleTotal s i, hop, heffect.outcome_eq, two_le_cycleTotal s i⟩⟩
  · exact ⟨_, hstep, .inr ⟨hop, rfl⟩⟩

end Sys2Proof.Machine
end

section
/-! PROOF. The state (10_state.md): what every step keeps (O41 to O46, O48), and the reset state, the resets and the
debug view (O1, O2, O4, O47, O51). -/

namespace Sys2Proof.Machine

/-! ### One step, read from the state it leaves -/

/-- What led to the state after a step: an instruction of the table, with all it can have done after the opcode fetch,
or the decode failure of an unlisted byte. -/
theorem step_next_cases {s t : State} (h : step s = .next t) :
    (∃ i rest, decode s.config s.codeBytes = .instr i rest ∧ s.nextOpcode = some i.opcode ∧
      exec i s.afterOpcodeFetch = .next t ∧ ExecEffect i s.afterOpcodeFetch t) ∨
    (s.nextOpcode = none ∧ t = takeDecodeFailure (s.mem.read s.pc.toNat) s.pc s.afterOpcodeFetch) := by
  rcases step_effect s with ⟨i, rest, u, hdecode, hop, hstep, hexec, heffect⟩ | ⟨hop, hstep⟩
  · cases h.symm.trans hstep
    exact .inl ⟨i, rest, hdecode, hop, hexec, heffect⟩
  · cases h.symm.trans hstep
    exact .inr ⟨hop, rfl⟩

/-- 40_engine_and_addressing.md R100: a step runs the instruction that the bytes at PC decode to. -/
theorem step_of_decode {s : State} {i : Instr} {rest : List Byte} (h : decode s.config s.codeBytes = .instr i rest) :
    step s = exec i s.afterOpcodeFetch := by
  rcases step_effect s with ⟨j, rest', t, hdecode, -, hstep, hexec, -⟩ | ⟨hop, -⟩
  · cases h.symm.trans hdecode
    rw [hstep, hexec]
  · cases (lookup_of_decode h).symm.trans hop

/-- 60_exceptions.md R300: a step at an unlisted byte takes the decode failure. -/
theorem step_of_unlisted {s : State} (h : s.nextOpcode = none) :
    step s = .next (takeDecodeFailure (s.mem.read s.pc.toNat) s.pc s.afterOpcodeFetch) := by
  rcases step_effect s with ⟨i, -, -, -, hop, -⟩ | ⟨-, hstep⟩
  · cases h.symm.trans hop
  · exact hstep

/-! ### What every step keeps -/

/-- Settles O46: an instruction writes memory through 16-bit addresses only, in canonical form, and the decode failure
writes nothing; no step writes the configuration. -/
theorem stepKeepsTheInvariant : Obligations.StepKeepsTheInvariant := by
  intro s t ⟨hmem, hconfig⟩ h
  rcases step_next_cases h with ⟨i, -, -, -, -, heffect⟩ | ⟨-, rfl⟩
  · exact ⟨heffect.memWf hmem, heffect.config ▸ hconfig⟩
  · exact ⟨hmem, hconfig⟩

/-- Settles O41: neither an instruction nor the decode failure writes any of them. -/
theorem stepKeepsIndexRegistersAndUnusedFlags : Obligations.StepKeepsIndexRegistersAndUnusedFlags := by
  intro s t h
  rcases step_next_cases h with ⟨i, -, -, -, -, heffect⟩ | ⟨-, rfl⟩
  · exact ⟨heffect.x, heffect.y, heffect.flagI, heffect.flagD, heffect.flagB, heffect.config⟩
  · exact ⟨rfl, rfl, rfl, rfl, rfl, rfl⟩

/-- 47_alu_extension.md R200: with `EXT_ALU` false the byte at PC is that of no extension instruction. -/
theorem nextOpcode_normative {s : State} (hext : s.config.extAlu = false) {n : Opcode} (h : s.nextOpcode = some n) :
    n.isExtension = false := by
  obtain ⟨henabled, -⟩ := Config.lookup_some h
  simpa [Config.enables, hext] using henabled

/-- Settles O42: the instruction at PC is one of the 19, which write C and V never, and A, Z and N only as LDA. -/
theorem normativeStepWritesAAndFlagsOnlyByLda : Obligations.NormativeStepWritesAAndFlagsOnlyByLda := by
  intro s t hext h
  rcases step_next_cases h with ⟨i, -, -, hop, -, heffect⟩ | ⟨-, rfl⟩
  · obtain ⟨hc, hv, hkeep⟩ := heffect.core (nextOpcode_normative hext hop)
    exact ⟨hc, hv, fun hlda => hkeep (hlda i.opcode hop)⟩
  · exact ⟨rfl, rfl, fun _ => ⟨rfl, rfl⟩⟩

/-- 90_conflicts.md C7: moving SP up or down by a stack word keeps its parity, also where it wraps. -/
theorem sp_add_two_parity (sp : Byte) : (sp + 2).toNat % 2 = sp.toNat % 2 := by bv_omega

theorem sp_sub_two_parity (sp : Byte) : (sp - 2).toNat % 2 = sp.toNat % 2 := by bv_omega

/-- Settles O43, by the three things an instruction can do to SP. -/
theorem spMovesOnlyByJsrAndRts : Obligations.SpMovesOnlyByJsrAndRts := by
  intro s t h
  rcases step_next_cases h with ⟨i, -, -, hop, -, heffect⟩ | ⟨-, rfl⟩
  · rcases heffect.sp with ⟨-, -, hsp⟩ | ⟨hjsr, hsp⟩ | ⟨hrts, hsp⟩
    · exact ⟨.inl hsp, by rw [hsp]; rfl⟩
    · exact ⟨.inr (.inl ⟨hjsr ▸ hop, hsp⟩), by rw [hsp]; exact sp_add_two_parity s.sp⟩
    · exact ⟨.inr (.inr ⟨hrts ▸ hop, hsp⟩), by rw [hsp]; exact sp_sub_two_parity s.sp⟩
  · exact ⟨.inl rfl, rfl⟩

/-- Settles O44: an instruction that stores nothing leaves the memory itself, and so does the decode failure. -/
theorem stepsThatStoreNothingKeepMemory : Obligations.StepsThatStoreNothingKeepMemory := by
  intro s t h hstores p
  rcases step_next_cases h with ⟨i, -, -, hop, -, heffect⟩ | ⟨-, rfl⟩
  · rw [heffect.mem (hstores i.opcode hop)]
    rfl
  · rfl

/-- Settles O45: the opcode fetch moves PC by 1, and an instruction that loads no PC moves it by the rest of its
length. -/
theorem pcGoesOnInSequence : Obligations.PcGoesOnInSequence := by
  intro s t n hn hloads h
  rcases step_next_cases h with ⟨i, -, -, hop, -, heffect⟩ | ⟨hop, -⟩
  · cases hn.symm.trans hop
    have hpc : (t.pc.toNat + 1) % 65536 = ((s.pc + 1).toNat + i.opcode.length) % 65536 := heffect.pc hloads
    have hfetch : (s.pc + 1).toNat = (s.pc.toNat + 1) % 65536 := inc16_toNat s.pc
    have ht := t.pc.isLt
    omega
  · cases hn.symm.trans hop

/-! ### Noninterference: the configuration and the log do not influence an instruction -/

/-- The state with another configuration and another log. -/
def State.relabel (c : Config) (l : List DecodeFailure) (s : State) : State := { s with config := c, log := l }

/-- A value read from a state, with the state after it relabelled. -/
def relabelSnd {α : Type} (c : Config) (l : List DecodeFailure) (o : α × State) : α × State :=
  (o.1, o.2.relabel c l)

/-- An outcome with the next state relabelled. -/
def relabelOutcome (c : Config) (l : List DecodeFailure) :
    Host.Outcome State Fault Refusal → Host.Outcome State Fault Refusal
  | .next s    => .next (s.relabel c l)
  | .fault r   => .fault r
  | .refused r => .refused r

section Relabel
variable (c : Config) (l : List DecodeFailure)

/-- The page-cross cycle is decided by the two addresses alone. -/
theorem indexed_relabel (i : Byte) (base : Word × State) :
    indexed i (relabelSnd c l base) = relabelSnd c l (indexed i base) :=
  congrArg (Prod.mk (add16 base.1 i)) (apply_ite (State.relabel c l) _ (internal 1 base.2) base.2).symm

theorem addrABX_relabel (w : Word) (s : State) : addrABX w (s.relabel c l) = relabelSnd c l (addrABX w s) :=
  indexed_relabel c l s.x (operandWord w s)

theorem addrABY_relabel (w : Word) (s : State) : addrABY w (s.relabel c l) = relabelSnd c l (addrABY w s) :=
  indexed_relabel c l s.y (operandWord w s)

theorem addrIZY_relabel (b : Byte) (s : State) : addrIZY b (s.relabel c l) = relabelSnd c l (addrIZY b s) :=
  indexed_relabel c l s.y (memRead2 (zext16 b) (operandByte b s).2)

/-- An instruction does the same under any configuration and log, and hands both on. The modes with a page-cross cycle
branch on the state; every other instruction is a straight line of updates. -/
theorem exec_relabel (i : Instr) (s : State) : exec i (s.relabel c l) = relabelOutcome c l (exec i s) := by
  cases i with
  | ldaAbx w | staAbx w | adcAbx w | sbcAbx w | andAbx w | oraAbx w | eorAbx w =>
    simp only [exec, execLdaAbx, execStaAbx, execAdcAbx, execSbcAbx, execAndAbx, execOraAbx, execEorAbx,
      addrABX_relabel]
    rfl
  | ldaAby w | staAby w | adcAby w | sbcAby w | andAby w | oraAby w | eorAby w =>
    simp only [exec, execLdaAby, execStaAby, execAdcAby, execSbcAby, execAndAby, execOraAby, execEorAby,
      addrABY_relabel]
    rfl
  | ldaIzy b | staIzy b | adcIzy b | sbcIzy b | andIzy b | oraIzy b | eorIzy b =>
    simp only [exec, execLdaIzy, execStaIzy, execAdcIzy, execSbcIzy, execAndIzy, execOraIzy, execEorIzy,
      addrIZY_relabel]
    rfl
  | _ => rfl

end Relabel

/-- The decoder reads `EXT_ALU` and `OPC` only (10_state.md R25: the layout is a matter of the packed view). -/
theorem decode_statusLayout (c : Config) (layout : StatusLayout) (bytes : List Byte) :
    decode { c with statusLayout := layout } bytes = decode c bytes := by
  cases bytes with
  | nil => rfl
  | cons op bytes => rfl

/-- Settles O48: the opcode fetch overwrites the cycle count and the signal, the decoder does not read the layout, and
the instruction hands on configuration and log. -/
theorem outputsDoNotInfluenceTheStep : Obligations.OutputsDoNotInfluenceTheStep := by
  intro s t cyc signal log layout h
  rcases step_next_cases h with ⟨i, rest, hdecode, -, hexec, heffect⟩ | ⟨hop, rfl⟩
  · have hsignal : t.signal.toList = [] := congrArg Option.toList heffect.signal
    have hrun : exec i (s.afterOpcodeFetch.relabel { s.config with statusLayout := layout } log) =
        .next (t.relabel { s.config with statusLayout := layout } log) := by
      rw [exec_relabel, hexec, relabelOutcome]
    rw [hsignal]
    refine ⟨heffect.log, Eq.trans (step_of_decode (i := i) (rest := rest) ?_) hrun⟩
    exact (decode_statusLayout s.config layout s.codeBytes).trans hdecode
  · exact ⟨rfl, step_of_unlisted hop⟩

/-! ### The reset state, the resets and the created machine -/

/-- 30_encoding.md R84: no two of the 19 rows have the same default byte. -/
theorem defaultConfig_wf : ({} : Config).wf = true := by decide +kernel

/-- Settles O47: the reset state lists no cell and has the default parameters. -/
theorem resetMeetsTheInvariant : Obligations.ResetMeetsTheInvariant := ⟨Memory.wf_nil, defaultConfig_wf⟩

/-- Settles O1: field by field, of the light and the full reset. -/
theorem resetCommandsSetAndKeep : Obligations.ResetCommandsSetAndKeep := by
  intro s
  refine ⟨?_, fun p => by rw [lightReset_mem], fun p => by rw [fullReset_mem, Memory.read_nil]⟩
  rw [List.forall_mem_cons, List.forall_mem_singleton]
  constructor
  · exact ⟨lightReset_pc s, lightReset_sp s, lightReset_a s, lightReset_x s, lightReset_y s, rfl, lightReset_cyc s⟩
  · exact ⟨fullReset_pc s, fullReset_sp s, fullReset_a s, fullReset_x s, fullReset_y s, rfl, fullReset_cyc s⟩

/-- Settles O2: a reset overwrites the same fields with the same values whatever stood there, and keeps the rest. -/
theorem resetsAreIdempotentAndReachReset : Obligations.ResetsAreIdempotentAndReachReset := by
  intro s
  exact ⟨rfl, rfl, rfl, rfl, rfl, rfl⟩

theorem State.created_mem (a x y sp : Byte) (pc : Word) (f : Flags) (c : Config) :
    (State.created a x y sp pc f c).mem = [] := rfl

/-- Settles O4: a created machine lists no cell, and its other fields are the given ones. -/
theorem createdMachineHasZeroMemory : Obligations.CreatedMachineHasZeroMemory := by
  intro a x y sp pc f c p
  refine ⟨?_, rfl, rfl, rfl, rfl, rfl, rfl, rfl⟩
  rw [State.created_mem, Memory.read_nil]

/-! ### The debug view and the packed status byte -/

/-- Eight booleans packed as a number, the first as bit 0, are the bits of the byte of that number. -/
theorem bits_of_packed (b0 b1 b2 b3 b4 b5 b6 b7 : Bool) :
    (List.range 8).map (BitVec.ofNat 8 (b0.toNat + 2 * b1.toNat + 4 * b2.toNat + 8 * b3.toNat + 16 * b4.toNat +
      32 * b5.toNat + 64 * b6.toNat + 128 * b7.toNat)).getLsbD = [b0, b1, b2, b3, b4, b5, b6, b7] := by
  have hbits : b0.toNat + 2 * b1.toNat + 4 * b2.toNat + 8 * b3.toNat + 16 * b4.toNat + 32 * b5.toNat +
      64 * b6.toNat + 128 * b7.toNat =
      Nat.bit b0 (Nat.bit b1 (Nat.bit b2 (Nat.bit b3 (Nat.bit b4 (Nat.bit b5 (Nat.bit b6 (Nat.bit b7 0))))))) := by
    simp only [Nat.bit_val]
    omega
  rw [hbits]
  simp [List.range, List.range.loop, -BitVec.getLsbD_eq_getElem, BitVec.getLsbD_ofNat, Nat.testBit_bit_succ]

/-- Settles O51: each layout leaves one of the eight bits out, which is then 0. -/
theorem debugViewAndStatusByte : Obligations.DebugViewAndStatusByte := by
  intro s layout p
  refine ⟨rfl, rfl, rfl, rfl, rfl, ?_⟩
  cases layout with
  | v5n6 => exact bits_of_packed _ _ _ _ _ _ _ false
  | v6n7 => exact bits_of_packed _ _ _ _ _ false _ _

end Sys2Proof.Machine
end

section
/-! PROOF. Memory (20_memory.md): byte and word accesses, the fetch primitives, the stack word, and what the host writes
(O9 to O12, O28, O52). -/

namespace Sys2Proof.Machine

/-! ### Byte accesses -/

/-- 20_memory.md R53: a byte write leaves every other cell. -/
theorem memWrite1_read_ne {p q : Word} (h : q ≠ p) (v : Byte) (s : State) :
    (memWrite1 p v s).mem.read q.toNat = s.mem.read q.toNat :=
  Memory.read_write_ne s.mem v (mt BitVec.eq_of_toNat_eq h)

/-- 20_memory.md R53: a byte written is read back at its address. -/
theorem memWrite1_read_same {s : State} (hm : s.mem.wf = true) (p : Word) (v : Byte) :
    (memWrite1 p v s).mem.read p.toNat = v :=
  Memory.read_write_same hm p.toNat v

theorem memWrite1_mem_wf {s : State} (hm : s.mem.wf = true) (p : Word) (v : Byte) :
    (memWrite1 p v s).mem.wf = true :=
  Memory.wf_write_word hm p v

/-- Settles O9: the two byte primitives by their equations, the cells by the laws of a byte write. -/
theorem byteAccessReadsAndWritesOneCell : Obligations.ByteAccessReadsAndWritesOneCell := by
  intro s p v
  exact ⟨memRead1_eq p s, memWrite1_eq p v s, fun q hq => memWrite1_read_ne hq v s,
    fun hm => memWrite1_read_same hm p v⟩

/-! ### Word accesses -/

/-- 20_memory.md R55: the low byte of a word stands at its address; the write of the high byte, at the next address,
leaves it there. -/
theorem memWrite2_read_lo {s : State} (hm : s.mem.wf = true) (p w : Word) :
    (memWrite2 p w s).mem.read p.toNat = lo w := by
  rw [memWrite2, memWrite1_read_ne (inc16_ne p).symm, memWrite1_read_same hm]

/-- 20_memory.md R55, R59: the high byte stands at the next address mod 65536. -/
theorem memWrite2_read_hi {s : State} (hm : s.mem.wf = true) (p w : Word) :
    (memWrite2 p w s).mem.read (inc16 p).toNat = hi w :=
  memWrite1_read_same (memWrite1_mem_wf hm p (lo w)) (inc16 p) (hi w)

theorem memWrite2_read_ne {p q : Word} (hlo : q ≠ p) (hhi : q ≠ inc16 p) (w : Word) (s : State) :
    (memWrite2 p w s).mem.read q.toNat = s.mem.read q.toNat := by
  rw [memWrite2, memWrite1_read_ne hhi, memWrite1_read_ne hlo]

/-- 20_memory.md R54, R55: a word read answers the word written at the address, and costs 2 cycles more. -/
theorem memRead2_memWrite2 {s : State} (hm : s.mem.wf = true) (p w : Word) :
    memRead2 p (memWrite2 p w s) = (w, internal 2 (memWrite2 p w s)) := by
  rw [memRead2_eq, memWrite2_read_hi hm, memWrite2_read_lo hm, mkWord_hi_lo]
  rfl

/-- Settles O10: the two cells of the word are distinct, also where the second address wraps to 0. -/
theorem wordWriteThenReadReturnsWord : Obligations.WordWriteThenReadReturnsWord := by
  intro s p w hm
  refine ⟨?_, ?_, fun q hlo hhi => memWrite2_read_ne hlo hhi w s, memWrite2_eq p w s, memRead2_memWrite2 hm p w⟩
  · rw [memWrite2_read_lo hm, lo_toNat]
  · rw [← inc16_toNat, memWrite2_read_hi hm, hi_toNat]

/-! ### The fetch primitives -/

/-- 20_memory.md R57: the word that FetchWord reads, in numbers. -/
theorem fetchWord_toNat (s : State) : (fetchWord s).1.toNat = wordAt s s.pc.toNat := (wordAt_eq s s.pc).symm

/-- The bytes from which the decoder takes an operand are the two halves of the word at PC (30_encoding.md R83). -/
theorem operandWindow_eq_fetchWord (s : State) : operandWindow s = [lo (fetchWord s).1, hi (fetchWord s).1] := by
  rw [fetchWord_eq, lo_mkWord, hi_mkWord]
  rfl

/-- 40_engine_and_addressing.md R100: the step runs the instruction decoded from the opcode byte that FetchByte read and
the two bytes after it, in the state that FetchByte left. -/
theorem step_of_fetched_decode {s : State} {i : Instr} {rest : List Byte}
    (h : decode s.config ((fetchByte (beginStep s)).1 :: operandWindow (fetchByte (beginStep s)).2) = .instr i rest) :
    step s = exec i (fetchByte (beginStep s)).2 := by
  have hcode : decode s.config s.codeBytes = .instr i rest := by
    rw [codeBytes_eq_window]
    exact h
  exact step_of_decode hcode

/-- Settles O11: the fetches by their equations; an operand form given the byte or word at PC is the fetch itself. -/
theorem fetchPrimitivesAdvancePc : Obligations.FetchPrimitivesAdvancePc := by
  intro s
  refine ⟨fetchByte_eq s, fetchWord_toNat s, rfl, BitVec.toNat_add s.pc 1, BitVec.toNat_add s.pc 2, ?_, ?_, rfl,
    operandWindow_eq_fetchWord s, fun i rest h => step_of_fetched_decode h⟩
  · rintro b rfl
    exact operandByte_eq (fetchByte s).1 s
  · rintro w rfl
    exact operandWord_eq (fetchWord s).1 s

/-! ### The stack word -/

/-- 20_memory.md R58: a pull undoes the move of SP by the push, also where it wraps, and so reads the word at the address
it was pushed to. -/
theorem pullWord_pushWord {s : State} (hm : s.mem.wf = true) (w : Word) :
    pullWord (pushWord w s) = (w, internal 2 (memWrite2 (stackAddr s.sp) w s)) := by
  have hsp : s.sp + 2 - 2 = s.sp := BitVec.add_sub_cancel s.sp 2
  calc pullWord (pushWord w s)
    _ = memRead2 (stackAddr (s.sp + 2 - 2)) ((pushWord w s).setSP (s.sp + 2 - 2)) := rfl
    _ = memRead2 (stackAddr s.sp) (memWrite2 (stackAddr s.sp) w s) := by rw [hsp]; rfl
    _ = _ := memRead2_memWrite2 hm (stackAddr s.sp) w

/-- Settles O12: the push is a word write at `StackAddr(SP)`, and the pull reads it back. -/
theorem pullAfterPushReturnsWord : Obligations.PullAfterPushReturnsWord := by
  intro s w hm
  refine ⟨BitVec.toNat_add s.sp 2, ?_, ?_, pullWord_pushWord hm w⟩
  · rw [← stackAddr_toNat, pushWord, State.setSP_mem, memWrite2_read_lo hm, lo_toNat]
  · rw [← inc16_stackAddr_toNat, pushWord, State.setSP_mem, memWrite2_read_hi hm, hi_toNat]

/-! ### A store and the next fetch -/

/-- 20_memory.md R68: after a mode that moved PC and the cycle count only, a fetch from the address stored to reads A. -/
theorem fetchByte_of_storeA {s : State} (hm : s.mem.wf = true) {e : Word × State} {p pc : Word} {cyc : Nat}
    (he : e = (p, { s with pc := pc, cyc := cyc })) :
    ∃ t, storeA e = .next t ∧ (e.1 = t.pc → (fetchByte t).1 = s.a) := by
  subst he
  refine ⟨_, storeA_at p s pc cyc, fun hpc => ?_⟩
  have hread : (s.mem.write p.toNat s.a).read p.toNat = s.a := Memory.read_write_same hm p.toNat s.a
  rw [fetchByte_eq, ← hpc]
  exact hread

/-- Settles O28: every STA is the store of A after its mode, and every mode moves PC and the cycle count only. -/
theorem storeIsSeenByTheNextFetch : Obligations.StoreIsSeenByTheNextFetch := by
  intro s b w hm
  simp only [List.forall_mem_cons]
  exact ⟨fetchByte_of_storeA hm (addrZP_eq b s), fetchByte_of_storeA hm (addrZPX_eq b s),
    fetchByte_of_storeA hm (addrAB_eq w s), fetchByte_of_storeA hm (addrABX_eq w s),
    fetchByte_of_storeA hm (addrABY_eq w s), fetchByte_of_storeA hm (addrIZX_eq b s),
    fetchByte_of_storeA hm (addrIZY_eq b s), List.forall_mem_nil _⟩

/-! ### What the host writes between steps -/

/-- 20_memory.md R70: injection is the byte write of the memory array, without its cycle. -/
theorem inject_eq (p : Word) (v : Byte) (s : State) : inject p v s = { s with mem := (memWrite1 p v s).mem } := rfl

/-- Settles O52: an injected byte has the laws of a byte write; a preset is the write of its register. -/
theorem hostWritesChangeOnlyTheirTarget : Obligations.HostWritesChangeOnlyTheirTarget := by
  intro s p w v f
  refine ⟨⟨inject p v s, rfl, inject_eq p v s, ?_, fun hm => ⟨?_, ?_⟩⟩, rfl, rfl, rfl, rfl, rfl, rfl⟩
  · exact fun q hq => memWrite1_read_ne hq v s
  · exact memWrite1_read_same hm p v
  · exact memWrite1_mem_wf hm p v

end Sys2Proof.Machine
end

section
/-! PROOF. The encoding (30_encoding.md): decode of encode and the other direction, what is rejected, and the default
tables (O15 to O19). -/

namespace Sys2Proof

/-! ### The decoder by the answer of the table lookup -/

theorem decode_of_lookup_some {c : Config} {op : Byte} {n : Opcode} (h : c.lookup op = some n) (bytes : List Byte) :
    decode c (op :: bytes) = decodeOperand op n bytes := by
  rw [decode_cons, h]

theorem decode_of_lookup_none {c : Config} {op : Byte} (h : c.lookup op = none) (bytes : List Byte) :
    decode c (op :: bytes) = .reject (.unrecognised op) := by
  rw [decode_cons, h]

/-! ### Decode of encode -/

section
open Laws.OperandRebuild

/-- The family OperandRebuild covers every instruction. -/
theorem decodeOperand_operandBytes : ∀ i : Instr, Statement i
  | .ldaIm b => ldaIm b   | .ldaZp b => ldaZp b   | .ldaZpx b => ldaZpx b | .ldaAb w => ldaAb w
  | .ldaAbx w => ldaAbx w | .ldaAby w => ldaAby w | .ldaIzx b => ldaIzx b | .ldaIzy b => ldaIzy b
  | .staZp b => staZp b   | .staZpx b => staZpx b | .staAb w => staAb w   | .staAbx w => staAbx w
  | .staAby w => staAby w | .staIzx b => staIzx b | .staIzy b => staIzy b
  | .jmpAb w => jmpAb w   | .jmpIn w => jmpIn w   | .jsrAb w => jsrAb w   | .rts => rts
  | .adcIm b => adcIm b   | .adcZp b => adcZp b   | .adcZpx b => adcZpx b | .adcAb w => adcAb w
  | .adcAbx w => adcAbx w | .adcAby w => adcAby w | .adcIzx b => adcIzx b | .adcIzy b => adcIzy b
  | .sbcIm b => sbcIm b   | .sbcZp b => sbcZp b   | .sbcZpx b => sbcZpx b | .sbcAb w => sbcAb w
  | .sbcAbx w => sbcAbx w | .sbcAby w => sbcAby w | .sbcIzx b => sbcIzx b | .sbcIzy b => sbcIzy b
  | .andIm b => andIm b   | .andZp b => andZp b   | .andZpx b => andZpx b | .andAb w => andAb w
  | .andAbx w => andAbx w | .andAby w => andAby w | .andIzx b => andIzx b | .andIzy b => andIzy b
  | .oraIm b => oraIm b   | .oraZp b => oraZp b   | .oraZpx b => oraZpx b | .oraAb w => oraAb w
  | .oraAbx w => oraAbx w | .oraAby w => oraAby w | .oraIzx b => oraIzx b | .oraIzy b => oraIzy b
  | .eorIm b => eorIm b   | .eorZp b => eorZp b   | .eorZpx b => eorZpx b | .eorAb w => eorAb w
  | .eorAbx w => eorAbx w | .eorAby w => eorAby w | .eorIzx b => eorIzx b | .eorIzy b => eorIzy b
  | .aslAcc => aslAcc | .aslZp b => aslZp b | .aslZpx b => aslZpx b | .aslAb w => aslAb w | .aslAbx w => aslAbx w
  | .lsrAcc => lsrAcc | .lsrZp b => lsrZp b | .lsrZpx b => lsrZpx b | .lsrAb w => lsrAb w | .lsrAbx w => lsrAbx w
  | .rolAcc => rolAcc | .rolZp b => rolZp b | .rolZpx b => rolZpx b | .rolAb w => rolAb w | .rolAbx w => rolAbx w
  | .rorAcc => rorAcc | .rorZp b => rorZp b | .rorZpx b => rorZpx b | .rorAb w => rorAb w | .rorAbx w => rorAbx w

end

/-- Settles O15: an injective table looks the opcode byte up to the name it is the byte of, and the operand bytes after
it are assembled to the operand. -/
theorem decodeOfEncodeIsTheInstruction : Obligations.DecodeOfEncodeIsTheInstruction := by
  intro c i rest hc hi
  have hlookup : c.lookup (c.opcodeByte i.opcode) = some i.opcode := Config.lookup_opcodeByte hc hi
  calc decode c (encode c i ++ rest)
    _ = decodeOperand (c.opcodeByte i.opcode) i.opcode (i.operandBytes ++ rest) := decode_of_lookup_some hlookup _
    _ = .instr i rest := decodeOperand_operandBytes i _ rest

/-! ### Encode of decode -/

/-- The bytes in which a format holds a one-byte operand `b` or a two-byte operand `w` (30_encoding.md R80, R83). -/
def Format.operandBytes (b : Byte) (w : Word) : Format → List Byte
  | .f1 => []
  | .f2 => [b]
  | .f3 => [lo w, hi w]

@[simp] theorem Opcode.instr_opcode (n : Opcode) (b : Byte) (w : Word) : (n.instr b w).opcode = n := by
  cases n <;> rfl

@[simp] theorem Opcode.instr_operandBytes (n : Opcode) (b : Byte) (w : Word) :
    (n.instr b w).operandBytes = n.format.operandBytes b w := by
  cases n <;> rfl

theorem Instr.length_operandBytes (i : Instr) : i.operandBytes.length + 1 = i.length := by
  cases i <;> rfl

/-- Operand assembly consumes the operand bytes of the instruction it answers, in each of the three formats. -/
theorem eq_of_decodeOperand {op : Byte} {n : Opcode} {bytes rest : List Byte} {i : Instr}
    (h : decodeOperand op n bytes = .instr i rest) : i.opcode = n ∧ bytes = i.operandBytes ++ rest := by
  unfold decodeOperand at h
  split at h
  case h_1 hf | h_2 hf | h_3 hf =>
    cases h
    simp [hf, Format.operandBytes]
  all_goals cases h

/-- Settles O16: the opcode byte is that of the row looked up, which is enabled, and the operand bytes are those
that the format of the row takes. -/
theorem decodedBytesAreTheEncoding : Obligations.DecodedBytesAreTheEncoding := by
  intro c i bytes rest h
  cases bytes with
  | nil => cases h
  | cons op operand =>
    cases hlookup : c.lookup op with
    | none => cases (decode_of_lookup_none hlookup operand).symm.trans h
    | some n =>
      rw [decode_of_lookup_some hlookup] at h
      obtain ⟨rfl, rfl⟩ := eq_of_decodeOperand h
      obtain ⟨henabled, rfl⟩ := Config.lookup_some hlookup
      exact ⟨rfl, i.length_operandBytes, henabled⟩

/-! ### What is rejected -/

/-- Three or more bytes hold every operand, so only the table lookup can reject them. -/
theorem decode_eq_reject_iff {c : Config} {op b1 b2 : Byte} {rest : List Byte} {r : Reject} :
    decode c (op :: b1 :: b2 :: rest) = .reject r ↔ c.lookup op = none ∧ r = .unrecognised op := by
  cases hlookup : c.lookup op with
  | none => simp [decode_of_lookup_none hlookup, eq_comm]
  | some n =>
    obtain ⟨i, tail, hinstr, -⟩ := decodeOperand_two op n b1 b2 rest
    simp [decode_of_lookup_some hlookup, hinstr]

/-- Settles O17: the rejection is the lookup's, which answers none exactly for a byte of no enabled row. -/
theorem decodeRejectsExactlyUnlistedBytes : Obligations.DecodeRejectsExactlyUnlistedBytes := by
  intro c op b1 b2 rest
  simp only [decode_eq_reject_iff, ← Config.lookup_eq_none]
  exact ⟨⟨fun ⟨_, hnone, _⟩ => hnone, fun hnone => ⟨_, hnone, rfl⟩⟩, fun _ hr => hr.2⟩

/-! ### The default tables -/

theorem Config.lookup_isSome_iff {c : Config} {op : Byte} :
    (c.lookup op).isSome = true ↔ op ∈ c.table.map c.opcodeByte := by
  simp [Config.lookup, Config.table, and_assoc]

/-- The byte values, as numbers, that the table of `c` holds. -/
def Config.listedBytes (c : Config) : List Nat :=
  (List.range 256).filter fun k => (c.lookup (BitVec.ofNat 8 k)).isSome

/-- An injective table holds as many byte values as it has rows. -/
theorem Config.length_listedBytes {c : Config} (hc : c.wf = true) : c.listedBytes.length = c.table.length := by
  have hbytes : (c.table.map c.opcodeByte).Nodup := of_decide_eq_true hc
  have hnums : ((c.table.map c.opcodeByte).map BitVec.toNat).Nodup :=
    hbytes.map fun _ _ h => BitVec.eq_of_toNat_eq h
  have hperm : c.listedBytes.Perm ((c.table.map c.opcodeByte).map BitVec.toNat) := by
    refine (List.perm_ext_iff_of_nodup (List.nodup_range.filter _) hnums).2 fun k => ?_
    rw [List.mem_filter, List.mem_range, List.mem_map, Config.lookup_isSome_iff]
    constructor
    · exact fun ⟨hk, hmem⟩ => ⟨_, hmem, Nat.mod_eq_of_lt hk⟩
    · rintro ⟨op, hmem, rfl⟩
      exact ⟨op.isLt, by rwa [BitVec.ofNat_toNat, BitVec.setWidth_eq]⟩
  simpa using hperm.length_eq

/-- 30_encoding.md R86: the byte values in no row are the rest of the 256. -/
theorem Config.length_unlistedBytes {c : Config} (hc : c.wf = true) :
    ((List.range 256).filter fun k => (c.lookup (BitVec.ofNat 8 k)).isNone).length = 256 - c.table.length := by
  have hsplit := List.length_eq_length_filter_add (l := List.range 256)
    fun k => (c.lookup (BitVec.ofNat 8 k)).isSome
  rw [← Config.listedBytes, Config.length_listedBytes hc] at hsplit
  simp only [List.length_range, Option.not_isSome] at hsplit
  omega

theorem wf_default : ({} : Config).wf = true := by decide +kernel

theorem wf_tableConfig : Config.tableConfig.wf = true := by decide +kernel

/-- Settles O18: both maps are injective by their bytes, so each row takes one of the 256 byte values. -/
theorem defaultTablesAreInjective : Obligations.DefaultTablesAreInjective :=
  ⟨wf_default, wf_tableConfig, rfl, rfl, Config.length_unlistedBytes wf_default,
    Config.length_unlistedBytes wf_tableConfig⟩

/-- With `EXT_ALU`, every instruction is decoded from its encoding by the default bytes. -/
theorem decode_encode_tableConfig (i : Instr) :
    decode Config.tableConfig (encode Config.tableConfig i) = .instr i [] := by
  have hwf : i.wf Config.tableConfig = true := Bool.or_true _
  simpa using decodeOfEncodeIsTheInstruction Config.tableConfig i [] wf_tableConfig hwf

/-- Settles O19: each written word is the encoding of its instruction, and without `EXT_ALU` no row has byte 0x69. -/
theorem writtenWordsDecode : Obligations.WrittenWordsDecode :=
  ⟨decode_encode_tableConfig (.ldaIm 0x42), decode_encode_tableConfig (.ldaAbx 0x1234),
    decode_encode_tableConfig (.staIzy 0x40), decode_encode_tableConfig (.jmpIn 0x0300),
    decode_encode_tableConfig (.jsrAb 0x0203), decode_encode_tableConfig .rts,
    decode_encode_tableConfig (.adcZpx 0xF0), decode_encode_tableConfig (.sbcAb 0x1234),
    decode_encode_tableConfig (.eorAby 0x1200), decode_encode_tableConfig (.rorAbx 0x12F0),
    decode_of_lookup_none (by decide) [0x50]⟩

end Sys2Proof
end

section
/-! PROOF. The engine and the addressing modes (40_engine_and_addressing.md): the datapath and the modes (O5, O7, O8, O13,
O14), what a step runs and costs (O20, O21, O24), and Run (O49, O50). -/

namespace Sys2Proof.Machine

/-! ### Flags and datapath -/

/-- 40_engine_and_addressing.md R109: SetLoadFlags in numbers. -/
theorem setLoadFlags_eq_zn (v : Byte) (s : State) : setLoadFlags v s = { s with flags := zn v s.flags } := by
  rw [zn_eq]
  rfl

/-- 41_load_store.md R148: a load after an operand fetch that left the flags alone sets them from the new A. -/
theorem flags_of_loadA {o : Byte × State} {s : State} (ho : o.2.flags = s.flags) :
    ∃ t, loadA o = .next t ∧ t.flags = (setLoadFlags t.a s).flags :=
  ⟨_, rfl, congrArg (Flags.setZN o.1) ho⟩

/-- Settles O5: by the numbers of Z and N; every LDA is a load after an operand fetch that keeps the flags. -/
theorem setLoadFlagsWritesOnlyZAndN : Obligations.SetLoadFlagsWritesOnlyZAndN := by
  intro v s b w
  have hz : (setLoadFlags v s).flags.z = decide (v.toNat = 0) := by rw [setLoadFlags_eq_zn]; rfl
  have hn : (setLoadFlags v s).flags.n = decide (128 ≤ v.toNat) := by rw [setLoadFlags_eq_zn]; rfl
  refine ⟨setLoadFlags_eq_zn v s, ?_, ?_, ?_, ?_, ?_⟩
  · rintro rfl
    exact ⟨hz, hn⟩
  · intro hlow hhigh
    rw [hz, hn, decide_eq_false_iff_not, decide_eq_false_iff_not]
    omega
  · intro hhigh
    rw [hz, hn, decide_eq_false_iff_not, decide_eq_true_iff]
    omega
  · rw [hz, hn, ← Bool.decide_and, decide_eq_false_iff_not]
    omega
  · simp only [List.forall_mem_cons]
    exact ⟨flags_of_loadA rfl, flags_of_loadA (by rw [readZP]), flags_of_loadA (by rw [readZPX]),
      flags_of_loadA (by rw [readAB]), flags_of_loadA (by rw [readABX]), flags_of_loadA (by rw [readABY]),
      flags_of_loadA (by rw [readIZX]), flags_of_loadA (by rw [readIZY]), List.forall_mem_nil _⟩

/-- Settles O7: the sums in numbers; each mode adds the index to its base and keeps the flags, page cross or not. -/
theorem indexAdditionsWrap : Obligations.IndexAdditionsWrap := by
  intro b i w s
  refine ⟨add8_toNat b i, add16_toNat w i, rfl, rfl, rfl, rfl, rfl, ?_⟩
  simp only [List.forall_mem_cons]
  exact ⟨rfl, rfl, by rw [addrABX_eq], by rw [addrABY_eq], by rw [addrIZY_eq], List.forall_mem_nil _⟩

/-- 40_engine_and_addressing.md R108: the sum leaves the page of its base exactly when the low bytes carry, also where it
wraps to page 0. -/
theorem pageCross_add16 (base : Word) (i : Byte) :
    pageCross base (add16 base i) = decide (256 ≤ base.toNat % 256 + i.toNat) := by
  have hbase := base.isLt
  have hindex := i.isLt
  rw [pageCross_eq, add16_toNat, decide_eq_decide]
  omega

/-- Settles O8: the low bytes of a base and the index 0 never carry. -/
theorem pageCrossIffLowByteCarries : Obligations.PageCrossIffLowByteCarries := by
  intro base i
  refine ⟨pageCross_add16 base i, ?_⟩
  rw [pageCross_add16, decide_eq_false_iff_not, show (0 : Byte).toNat = 0 from rfl]
  omega

/-! ### Addressing modes -/

/-- Settles O13: by the equations of the three modes, whatever the operand; zero-extension keeps its number. -/
theorem directModesFetchTheirOperand : Obligations.DirectModesFetchTheirOperand := by
  intro s
  exact ⟨operandIM_eq _ s, zext16_toNat _, rfl, addrAB_eq _ s⟩

/-- Settles O14: by the equation of each mode, its address read in numbers. -/
theorem indexedModesGiveAddressAndCost : Obligations.IndexedModesGiveAddressAndCost := by
  intro s b w
  refine ⟨?zpx, rfl, ?abx, ?abxCost, ?aby, ?abyCost, (eaIzx_eq s b).symm, rfl, ?izy, ?izyCost, ?ind, rfl, ?rmw, rfl⟩
  case zpx => rw [addrZPX_eq, eaZpx_eq]
  case abx => rw [addrABX_cross, eaAbx_eq]
  case abxCost => rw [addrABX_cross]
  case aby => rw [addrABY_cross, eaAby_eq]
  case abyCost => rw [addrABY_cross]
  case izy => rw [addrIZY_cross, eaIzy_eq]
  case izyCost => rw [addrIZY_cross]
  case ind => rw [addrIN_eq, wordAt_eq]
  case rmw => rw [addrABXrmw_eq, eaAbx_eq]

/-! ### What a step runs -/

/-- Settles O20: the decoded instruction is the one that the case analysis of a step found. -/
theorem stepRunsTheDecodedInstruction : Obligations.StepRunsTheDecodedInstruction :=
  fun _ _ _ h => step_of_decode h

theorem codeAt_cons {m : Memory} {addr : Nat} {b : Byte} {bs : List Byte} :
    codeAt m addr (b :: bs) = true ↔ m.read (addr % 65536) = b ∧ codeAt m (addr + 1) bs = true := by
  rw [codeAt, Bool.and_eq_true, beq_iff_eq]

/-- The code bytes at PC are the cells at the three addresses from PC on, mod 65536. -/
theorem codeBytes_eq (s : State) : s.codeBytes =
    [s.mem.read (s.pc.toNat % 65536), s.mem.read ((s.pc.toNat + 1) % 65536),
      s.mem.read ((s.pc.toNat + 1 + 1) % 65536)] := by
  rw [State.codeBytes, BitVec.toNat_add, BitVec.toNat_add, Nat.mod_eq_of_lt s.pc.isLt]
  rfl

/-- Up to three bytes that stand in memory from PC on are the first of the code bytes. -/
theorem codeBytes_eq_append_of_codeAt {s : State} {bs : List Byte} (hlen : bs.length ≤ 3)
    (h : codeAt s.mem s.pc.toNat bs = true) : ∃ rest, s.codeBytes = bs ++ rest := by
  rw [codeBytes_eq]
  match bs with
  | [] => exact ⟨_, rfl⟩
  | [b0] =>
    obtain ⟨rfl, -⟩ := codeAt_cons.1 h
    exact ⟨[_, _], rfl⟩
  | [b0, b1] =>
    obtain ⟨rfl, h1⟩ := codeAt_cons.1 h
    obtain ⟨rfl, -⟩ := codeAt_cons.1 h1
    exact ⟨[_], rfl⟩
  | [b0, b1, b2] =>
    obtain ⟨rfl, h1⟩ := codeAt_cons.1 h
    obtain ⟨rfl, h2⟩ := codeAt_cons.1 h1
    obtain ⟨rfl, -⟩ := codeAt_cons.1 h2
    exact ⟨[], rfl⟩
  | _ :: _ :: _ :: _ :: _ =>
    simp only [List.length_cons] at hlen
    omega

/-- 30_encoding.md R80: an instruction has at most three bytes. -/
theorem length_encode_le (c : Config) (i : Instr) : (encode c i).length ≤ 3 := by
  rw [encode, List.length_cons, Instr.length_operandBytes, Instr.length, Opcode.length]
  cases i.opcode.format <;> decide

/-- Settles O21: the code bytes at PC begin with the encoding, so they decode to the instruction. -/
theorem stepRunsTheEncodedInstruction : Obligations.StepRunsTheEncodedInstruction := by
  intro s i hconfig hi hcode
  obtain ⟨rest, hbytes⟩ := codeBytes_eq_append_of_codeAt (length_encode_le s.config i) hcode
  have hdecode : decode s.config s.codeBytes = .instr i rest := by
    rw [hbytes]
    exact decodeOfEncodeIsTheInstruction s.config i rest hconfig hi
  exact step_of_decode hdecode

/-! ### What a step costs -/

/-- 40_engine_and_addressing.md R123, 47_alu_extension.md R207: no instruction of the 19 costs more than 6 cycles, and
none of the extension, where the read-modify-write ABX is the dearest, more than 7. -/
theorem cycleTotal_le (s : State) (i : Instr) : cycleTotal s i ≤ 6 + i.opcode.isExtension.toNat := by
  cases i with
  | ldaAbx w | staAbx w | adcAbx w | sbcAbx w | andAbx w | oraAbx w | eorAbx w =>
    have := crossCycle_le w.toNat s.x.toNat
    simp only [cycleTotal]
    omega
  | ldaAby w | staAby w | adcAby w | sbcAby w | andAby w | oraAby w | eorAby w =>
    have := crossCycle_le w.toNat s.y.toNat
    simp only [cycleTotal]
    omega
  | ldaIzy b | staIzy b | adcIzy b | sbcIzy b | andIzy b | oraIzy b | eorIzy b =>
    have := crossCycle_le (wordAt s b.toNat) s.y.toNat
    simp only [cycleTotal]
    omega
  | aslAbx w | lsrAbx w | rolAbx w | rorAbx w => exact Nat.le_refl 7
  | _ =>
    simp only [cycleTotal]
    omega

theorem cycleTotal_le_seven (s : State) (i : Instr) : cycleTotal s i ≤ 7 :=
  (cycleTotal_le s i).trans (Nat.add_le_add_left (Bool.toNat_le _) 6)

/-- 47_alu_extension.md R200: with `EXT_ALU` false the instruction at PC is one of the 19. -/
theorem cycleTotal_le_six {s : State} (hext : s.config.extAlu = false) {i : Instr}
    (hop : s.nextOpcode = some i.opcode) : cycleTotal s i ≤ 6 := by
  have hle := cycleTotal_le s i
  rwa [nextOpcode_normative hext hop] at hle

/-- Settles O24: the instruction decoded is run, ends as Done at its table total, and the table has these bounds. -/
theorem stepCostsTheTableTotal : Obligations.StepCostsTheTableTotal := by
  intro s i rest hdecode
  obtain ⟨t, hexec, heffect⟩ := exec_effect i s.afterOpcodeFetch
  refine ⟨⟨t, ?_, heffect.outcome_eq⟩, two_le_cycleTotal s i, cycleTotal_le_seven s i, ?_⟩
  · rw [step_of_decode hdecode, hexec]
  · exact fun hext => cycleTotal_le_six hext (lookup_of_decode hdecode)

/-! ### Run -/

/-- What Run needs to know of a step: it completes, costs 1 to 7 cycles, at most 6 without `EXT_ALU`, and keeps the
configuration. -/
theorem step_completes (s : State) : ∃ t, step s = .next t ∧ 1 ≤ t.cyc ∧ t.cyc ≤ 7 ∧
    (s.config.extAlu = false → t.cyc ≤ 6) ∧ t.config = s.config := by
  rcases step_effect s with ⟨i, -, t, -, hop, hstep, -, heffect⟩ | ⟨-, hstep⟩
  · have hcyc : t.cyc + 1 = 1 + cycleTotal s i := heffect.cyc
    have hlow := two_le_cycleTotal s i
    have hhigh := cycleTotal_le_seven s i
    refine ⟨t, hstep, by omega, by omega, fun hext => ?_, heffect.config⟩
    have := cycleTotal_le_six hext hop
    omega
  · exact ⟨_, hstep, Nat.le_refl 1, Nat.le_add_left 1 6, fun _ => Nat.le_add_left 1 5, rfl⟩

theorem runFor_of_nonpos (k : Nat) {n : Int} (hn : n ≤ 0) (s : State) : runFor k n s = .next (n, s) := by
  cases k with
  | zero => rfl
  | succ k => exact if_neg (Int.not_lt.2 hn)

theorem runFor_succ_of_pos (k : Nat) {n : Int} (hn : 0 < n) {s t : State} (h : step s = .next t) :
    runFor (k + 1) n s = runFor k (n - t.cyc) t := by
  rw [runFor, if_pos hn, h]

/-- 40_engine_and_addressing.md R122: since every step costs a cycle, any bound of at least the budget is as good as
any other: it is never reached with budget left. -/
theorem runFor_eq_of_le {k m : Nat} {n : Int} (hk : n ≤ k) (hm : n ≤ m) (s : State) :
    runFor k n s = runFor m n s := by
  induction k generalizing m n s with
  | zero => rw [runFor_of_nonpos 0 hk, runFor_of_nonpos m hk]
  | succ k ih =>
    rcases le_or_gt n 0 with hn | hn
    · rw [runFor_of_nonpos _ hn, runFor_of_nonpos _ hn]
    · obtain ⟨t, hstep, hcyc, -⟩ := step_completes s
      obtain ⟨m, rfl⟩ : ∃ m', m = m' + 1 := Nat.exists_eq_succ_of_ne_zero (by omega)
      rw [runFor_succ_of_pos k hn hstep, runFor_succ_of_pos m hn hstep]
      exact ih (by omega) (by omega) t

theorem runFor_eq_run {k : Nat} {n : Int} (hk : n ≤ k) (s : State) : runFor k n s = run n s :=
  runFor_eq_of_le hk (Int.self_le_toNat n) s

theorem run_of_nonpos {n : Int} (hn : n ≤ 0) (s : State) : run n s = .next (n, s) :=
  runFor_of_nonpos n.toNat hn s

/-- 40_engine_and_addressing.md R121: one turn of the loop. -/
theorem run_of_pos {n : Int} (hn : 0 < n) {s t : State} (h : step s = .next t) : run n s = run (n - t.cyc) t := by
  obtain ⟨u, hstep, hcyc, -⟩ := step_completes s
  cases h.symm.trans hstep
  calc run n s
    _ = runFor (n.toNat + 1) n s := (runFor_eq_run (by omega) s).symm
    _ = runFor n.toNat (n - t.cyc) t := runFor_succ_of_pos n.toNat hn h
    _ = run (n - t.cyc) t := runFor_eq_run (by omega) t

/-- Settles O49: the loop test, and one turn of the loop. -/
theorem runIsTheWhileLoop : Obligations.RunIsTheWhileLoop := by
  intro n s
  refine ⟨fun hn => run_of_nonpos hn s, fun hn => ?_⟩
  obtain ⟨t, hstep, -⟩ := step_completes s
  exact ⟨t, hstep, run_of_pos hn hstep⟩

/-- 40_engine_and_addressing.md R121: the last step starts with at least 1 cycle of budget left and costs at most 7, at
most 6 without `EXT_ALU`. -/
theorem run_remainder (n : Int) (s : State) (hn : 0 < n) :
    ∃ r t, run n s = .next (r, t) ∧ r ≤ 0 ∧ -6 ≤ r ∧ (s.config.extAlu = false → -5 ≤ r) := by
  obtain ⟨t, hstep, hlow, hhigh, hnormative, hconfig⟩ := step_completes s
  rw [run_of_pos hn hstep, ← hconfig]
  rcases le_or_gt (n - t.cyc) 0 with hlast | hmore
  · refine ⟨n - t.cyc, t, run_of_nonpos hlast t, hlast, by omega, fun hext => ?_⟩
    have := hnormative (hconfig ▸ hext)
    omega
  · exact run_remainder (n - t.cyc) t hmore
termination_by n.toNat
decreasing_by omega

/-- Settles O50: the bound is never reached early, and the last step overspends by what it costs beyond 1 cycle. -/
theorem runTerminatesWithSmallOverspend : Obligations.RunTerminatesWithSmallOverspend :=
  fun n s hn => ⟨fun _ hk => runFor_eq_run hk s, run_remainder n s hn⟩

end Sys2Proof.Machine
end

section
/-! PROOF. Load and store (41_load_store.md): the whole effect of LDA and STA in every mode (O25, O26), the flags after a
load (O6), and the one byte that a store writes (O27). -/

namespace Sys2Proof.Machine

/-! ### LDA -/

/-- 41_load_store.md R148, in numbers: the whole effect of a load after a fetch that moved PC and the cycle count only. -/
theorem loadA_of_fetch {o : Byte × State} {s : State} {v : Byte} {pc : Word} {cyc : Nat}
    (ho : o = (v, { s with pc := pc, cyc := cyc })) :
    loadA o = .next { s with a := v, flags := zn v s.flags, pc := pc, cyc := cyc } := by
  rw [ho, loadA_at, zn_eq]

/-- Settles O25: every LDA is a load of A after its operand fetch, which reads in numbers what the mode's row says. -/
theorem ldaEffects : Obligations.LdaEffects := by
  intro s b w
  refine ⟨loadA_of_fetch (operandIM_eq b s), ?_⟩
  simp only [modeRows, List.zip_cons_cons, List.zip_nil_left, List.forall_mem_cons]
  exact ⟨loadA_of_fetch (readZP b s), loadA_of_fetch (readZPX b s), loadA_of_fetch (readAB w s),
    loadA_of_fetch (readABX w s), loadA_of_fetch (readABY w s), loadA_of_fetch (readIZX b s),
    loadA_of_fetch (readIZY b s), List.forall_mem_nil _⟩

/-- 41_load_store.md R148: an instruction that loads the same byte whatever A and the flags were, and sets Z and N from
it, leaves Z and N of the new A, from any old A, Z and N the same state. -/
theorem flags_from_new_a_of_load {i : Instr} {s : State} (v : Byte) (bytes cyc : Nat)
    (h : ∀ (a : Byte) (f : Flags), exec i { s with a := a, flags := f } =
      .next { s with a := v, flags := zn v f, pc := s.pc + BitVec.ofNat 16 bytes, cyc := s.cyc + cyc }) :
    ∃ t, exec i s = .next t ∧ t.flags.z = decide (t.a = 0) ∧ t.flags.n = t.a.getLsbD 7 ∧
      (∀ p : Word, t.mem.read p.toNat = s.mem.read p.toNat) ∧
      ∀ (a' : Byte) (z' n' : Bool),
        exec i { s with a := a', flags := { s.flags with z := z', n := n' } } = .next t := by
  refine ⟨_, h s.a s.flags, ?_, ?_, fun _ => rfl, fun a' z' n' => h a' { s.flags with z := z', n := n' }⟩
  · rw [zn_eq]
    exact beq_eq_decide v 0
  · rw [zn_eq]
    exact BitVec.msb_eq_getLsbD_last v

/-- What holds for the form of every (form, row) pair holds for every form, as long as there are enough rows. -/
theorem forall_mem_of_zip {α β : Type} {P : α → Prop} {forms : List α} {rows : List β}
    (hlen : forms.length ≤ rows.length) (h : ∀ r ∈ List.zip forms rows, P r.1) : ∀ i ∈ forms, P i := by
  intro i hi
  rw [← List.map_fst_zip hlen] at hi
  obtain ⟨r, hr, rfl⟩ := List.mem_map.1 hi
  exact h r hr

/-- Settles O6: by the whole effect of each LDA (O25), in which neither A nor a flag decides what is loaded. -/
theorem ldaSetsFlagsFromNewA : Obligations.LdaSetsFlagsFromNewA := by
  intro s b w
  have heffect (a : Byte) (f : Flags) := ldaEffects { s with a := a, flags := f } b w
  refine List.forall_mem_cons.2 ⟨flags_from_new_a_of_load b 1 1 fun a f => (heffect a f).1, ?_⟩
  exact forall_mem_of_zip (rows := modeRows s b w) (Nat.le_refl 7) fun r hr =>
    flags_from_new_a_of_load (s.mem.read r.2.ea) r.2.bytes r.2.cyc fun a f => (heffect a f).2 r hr

/-! ### STA -/

/-- 41_load_store.md R149, in numbers: the whole effect of a store after a mode that moved PC and the cycle count only. -/
theorem storeA_of_mode {e : Word × State} {s : State} {p pc : Word} {ea cyc total : Nat}
    (he : e = (p, { s with pc := pc, cyc := cyc })) (hea : ea = p.toNat) (htotal : total = cyc + 1) :
    storeA e = .next { s with mem := s.mem.write ea s.a, pc := pc, cyc := total } := by
  rw [he, hea, htotal, storeA_at]

/-- Settles O26: every STA is a store of A at the address that the mode's row gives in numbers; the write adds a cycle. -/
theorem staEffects : Obligations.StaEffects := by
  intro s b w
  simp only [modeRows, List.zip_cons_cons, List.zip_nil_left, List.forall_mem_cons]
  exact ⟨storeA_of_mode (addrZP_eq b s) (eaZp_eq b) rfl, storeA_of_mode (addrZPX_eq b s) (eaZpx_eq s b) rfl,
    storeA_of_mode (addrAB_eq w s) rfl rfl, storeA_of_mode (addrABX_cross w s) (eaAbx_eq s w) (by omega),
    storeA_of_mode (addrABY_cross w s) (eaAby_eq s w) (by omega), storeA_of_mode (addrIZX_eq b s) (eaIzx_eq s b) rfl,
    storeA_of_mode (addrIZY_cross b s) (eaIzy_eq s b) (by omega), List.forall_mem_nil _⟩

/-- 41_load_store.md R149: after a mode that moved PC and the cycle count only, the store of A writes the byte at the
mode's address and nothing else, and ends with the PC and the cycles of a load through the same mode. -/
theorem storeA_writes_one_byte {e : Word × State} {s : State} {p pc : Word} {cyc : Nat}
    (he : e = (p, { s with pc := pc, cyc := cyc })) :
    ∃ t u, storeA e = .next t ∧ loadA (readOperand e) = .next u ∧ t.cyc = u.cyc ∧ t.pc = u.pc ∧
      t = { s with mem := t.mem, pc := t.pc, cyc := t.cyc } ∧
      (∀ q : Word, q ≠ e.1 → t.mem.read q.toNat = s.mem.read q.toNat) ∧
      (s.mem.wf = true → t.mem.read e.1.toNat = s.a) := by
  subst he
  refine ⟨_, _, storeA_at p s pc cyc, rfl, rfl, rfl, rfl, fun q hq => ?_, fun hm => ?_⟩
  · exact memWrite1_read_ne hq s.a s
  · exact memWrite1_read_same hm p s.a

/-- Settles O27: each STA is the store, and the LDA beside it the load, through one mode, which moves PC and the cycle
count only. -/
theorem staWritesExactlyOneByte : Obligations.StaWritesExactlyOneByte := by
  intro s b w
  simp only [List.forall_mem_cons]
  exact ⟨storeA_writes_one_byte (addrZP_eq b s), storeA_writes_one_byte (addrZPX_eq b s),
    storeA_writes_one_byte (addrAB_eq w s), storeA_writes_one_byte (addrABX_eq w s),
    storeA_writes_one_byte (addrABY_eq w s), storeA_writes_one_byte (addrIZX_eq b s),
    storeA_writes_one_byte (addrIZY_eq b s), List.forall_mem_nil _⟩

end Sys2Proof.Machine
end

section
/-! PROOF. Jumps and subroutines (42_jump_subroutine.md): JMP, JSR and RTS as the word accesses they make (O29 to O31),
and the return behind a JSR (O32). -/

namespace Sys2Proof.Machine

/-! ### What the four instructions read and write, by the word accesses of 20_memory.md -/

/-- The word at an address in numbers, as a word, is what a word read answers there. -/
theorem ofNat_wordAt (s : State) (p : Word) : BitVec.ofNat 16 (wordAt s p.toNat) = (memRead2 p s).1 := by
  rw [wordAt_eq, memRead2_eq, BitVec.ofNat_toNat, BitVec.setWidth_eq]

theorem exec_jmpIn_eq_memRead2 (w : Word) (s : State) :
    exec (.jmpIn w) s = .next { s with pc := (memRead2 w s).1, cyc := s.cyc + 4 } := rfl

/-- 42_jump_subroutine.md R162: the return word is the address of the JSR's last byte, and SP addresses its cells. -/
theorem exec_jsrAb_eq_memWrite2 (w : Word) (s : State) :
    exec (.jsrAb w) s = .next { s with
      mem := (memWrite2 (stackAddr s.sp) (s.pc + 1) s).mem, sp := s.sp + 2, pc := w, cyc := s.cyc + 5 } :=
  jsr_eq w s

/-- 42_jump_subroutine.md R163: control goes on behind the address in the word below SP. -/
theorem exec_rts_eq_memRead2 (s : State) :
    exec .rts s = .next { s with
      sp := s.sp - 2, pc := inc16 (memRead2 (stackAddr (s.sp - 2)) s).1, cyc := s.cyc + 5 } :=
  rts_eq s

/-! ### The effects -/

/-- Settles O29: JMP_AB loads its operand; JMP_IN loads what a word read at its operand answers. -/
theorem jmpEffects : Obligations.JmpEffects := by
  intro s w
  refine ⟨rfl, ?_⟩
  rw [exec_jmpIn_eq_memRead2, ofNat_wordAt]

/-- Settles O30: JSR's only write is the return word at `StackAddr(SP)`, so its cells are those of a word write. -/
theorem jsrEffects : Obligations.JsrEffects := by
  intro s w
  refine ⟨_, exec_jsrAb_eq_memWrite2 w s, rfl, fun q hlo hhi => memWrite2_read_ne hlo hhi (s.pc + 1) s,
    fun hm => ⟨?_, ?_⟩⟩
  · rw [← stackAddr_toNat, memWrite2_read_lo hm, lo_toNat, ← inc16_toNat]
    rfl
  · rw [← inc16_stackAddr_toNat, memWrite2_read_hi hm, hi_toNat, ← inc16_toNat]
    rfl

/-- Settles O31: the word read below SP, and the increment after it, in numbers mod 65536. -/
theorem rtsEffects : Obligations.RtsEffects := by
  intro s
  rw [exec_rts_eq_memRead2, ← stackAddr_toNat, BitVec.ofNat_add, ofNat_wordAt]
  rfl

/-! ### The return behind a JSR -/

/-- 20_memory.md R54: a word read depends on the two cells of the word only. -/
theorem memRead2_fst_congr {p : Word} {s u : State} (hlo : u.mem.read p.toNat = s.mem.read p.toNat)
    (hhi : u.mem.read (inc16 p).toNat = s.mem.read (inc16 p).toNat) : (memRead2 p u).1 = (memRead2 p s).1 := by
  rw [memRead2_eq, memRead2_eq, hlo, hhi]

/-- Settles O32: the RTS reads below SP the word that the JSR wrote, since SP moves back and its two cells are as the JSR
left them; one further than the JSR's last byte is the byte behind it. -/
theorem rtsReturnsBehindTheJsr : Obligations.RtsReturnsBehindTheJsr := by
  intro s w hm
  refine ⟨_, exec_jsrAb_eq_memWrite2 w s, fun u hsp hlo hhi => ?_⟩
  have hback : u.sp - 2 = s.sp := by rw [hsp, BitVec.add_sub_cancel]
  rw [← stackAddr_toNat] at hlo
  rw [← inc16_stackAddr_toNat] at hhi
  have hword : (memRead2 (stackAddr s.sp) u).1 = s.pc + 1 :=
    calc (memRead2 (stackAddr s.sp) u).1
      _ = (memRead2 (stackAddr s.sp) (memWrite2 (stackAddr s.sp) (s.pc + 1) s)).1 := memRead2_fst_congr hlo hhi
      _ = s.pc + 1 := by rw [memRead2_memWrite2 hm]
  have hpc : inc16 (s.pc + 1) = s.pc + 2 := BitVec.add_assoc s.pc 1 1
  rw [exec_rts_eq_memRead2, hback, hword, hpc]

end Sys2Proof.Machine
end

section
/-! PROOF. The ALU extension (47_alu_extension.md): ADC and SBC as functions (O34, O35), the shifts in numbers and the
rotates (O40), and the whole effect of every form (O33, O36 to O39). -/

namespace Sys2Proof.Machine

/-- A Carry that a comparison decides, as a number. -/
theorem toNat_decide (p : Prop) [Decidable p] : (decide p).toNat = if p then 1 else 0 := Bool.cond_decide p 1 0

/-! ### Addition and subtraction -/

/-- 47_alu_extension.md R202: the bit that V takes is set exactly when the result's sign is that of neither operand. -/
theorem overflow_bit_iff (a m r : Byte) :
    ((a ^^^ r) &&& (m ^^^ r)).msb = true ↔
      ¬(128 ≤ a.toNat ↔ 128 ≤ r.toNat) ∧ ¬(128 ≤ m.toNat ↔ 128 ≤ r.toNat) := by
  rw [BitVec.msb_and, BitVec.msb_xor, BitVec.msb_xor]
  simp only [Bool.and_eq_true, bne_iff_ne, BitVec.msb_eq_decide, ne_eq, decide_eq_decide]

/-- 47_alu_extension.md R202: result and Carry of ADC are the low byte and the ninth bit of the sum. -/
theorem adcFn_sum (a m : Byte) (f : Flags) :
    (adcFn a m f).1.toNat + 256 * (adcFn a m f).2.c.toNat = a.toNat + m.toNat + f.c.toNat := by
  have hc := Bool.toNat_le f.c
  simp only [adcFn, BitVec.toNat_ofNat, toNat_decide]
  split <;> omega

/-- 47_alu_extension.md R202: V of ADC by the signs of the operands and the result. -/
theorem adcFn_v_iff (a m : Byte) (f : Flags) :
    (adcFn a m f).2.v = true ↔ ¬(128 ≤ a.toNat ↔ 128 ≤ (adcFn a m f).1.toNat) ∧
      ¬(128 ≤ m.toNat ↔ 128 ≤ (adcFn a m f).1.toNat) :=
  overflow_bit_iff a m (adcFn a m f).1

/-- 47_alu_extension.md R202, R201: ADC sets Z and N from its result and writes C and V beside them. -/
theorem adcFn_flags (a m : Byte) (f : Flags) :
    (adcFn a m f).2 = { zn (adcFn a m f).1 f with c := (adcFn a m f).2.c, v := (adcFn a m f).2.v } := by
  rw [zn_eq]
  rfl

/-- Settles O34: read signed, each byte is its number less 256 where its sign bit is set, so the signed sum leaves
-128..127 exactly when the sign of the 9-bit sum's low byte is that of neither operand. -/
theorem adcIsBinaryAdditionWithSignedOverflow : Obligations.AdcIsBinaryAdditionWithSignedOverflow := by
  intro a m f
  have hc := Bool.toNat_le f.c
  have hsum := adcFn_sum a m f
  have hv := adcFn_v_iff a m f
  refine ⟨hsum, ?_, fun hclear => ?_, adcFn_flags a m f⟩
  · rw [hv]
    simp only [BitVec.toInt_eq_toNat_cond]
    omega
  · rw [← Bool.not_eq_true, hv] at hclear
    simp only [BitVec.toInt_eq_toNat_cond]
    omega

/-- 47_alu_extension.md R203: SBC is ADC of the complement. -/
theorem sbcFn_eq (a m : Byte) (f : Flags) : sbcFn a m f = adcFn a (~~~m) f :=
  congrArg (adcFn a · f) BitVec.xor_allOnes

theorem toInt_complement (m : Byte) : (~~~m).toInt = -1 - m.toInt := by
  simp only [BitVec.toInt_eq_toNat_cond, BitVec.toNat_not]
  omega

/-- Settles O35: SBC is ADC of the complement, which is 255 less the operand, and -1 less it when read signed. -/
theorem sbcIsSubtractionWithBorrow : Obligations.SbcIsSubtractionWithBorrow := by
  intro a m f
  have hc := Bool.toNat_le f.c
  have hcarry := Bool.toNat_le (sbcFn a m f).2.c
  obtain ⟨hsum, hv, hexact, hflags⟩ := adcIsBinaryAdditionWithSignedOverflow a (~~~m) f
  rw [← sbcFn_eq] at hsum hv hexact hflags
  rw [BitVec.toNat_not] at hsum
  have hsigned : a.toInt + (~~~m).toInt + f.c.toNat = a.toInt - m.toInt - (1 - f.c.toNat) := by
    rw [toInt_complement]
    omega
  rw [hsigned] at hv hexact
  refine ⟨?_, ?_, hv, hexact, hflags⟩
  · omega
  · rw [← Bool.toNat_eq_one]
    omega

/-! ### The shifts in numbers -/

/-- 47_alu_extension.md R205: a shift's result and Carry, when they are `k` mod 256 and the bit `c`, are those of the shift
in numbers. -/
theorem shifted_of_eq {r : Byte} {carry : Bool} {k c : Nat} (f : Flags) (hr : r = BitVec.ofNat 8 k)
    (hcarry : carry = decide (c = 1)) : (r, { f.setZN r with c := carry }) = shifted k c f := by
  rw [hr, hcarry, ← zn_eq]
  rfl

theorem shiftLeft_one_eq (v : Byte) : v <<< 1 = BitVec.ofNat 8 (2 * v.toNat) := by
  rw [← BitVec.toNat_inj, BitVec.toNat_shiftLeft, BitVec.toNat_ofNat, Nat.shiftLeft_eq]
  omega

theorem shiftRight_one_eq (v : Byte) : v >>> 1 = BitVec.ofNat 8 (v.toNat / 2) := by
  rw [← BitVec.toNat_inj, BitVec.toNat_ushiftRight, BitVec.toNat_ofNat, Nat.shiftRight_eq_div_pow]
  omega

/-- The bit that a left shift moves out. -/
theorem msb_eq_div (v : Byte) : v.msb = decide (v.toNat / 128 = 1) := by
  rw [BitVec.msb_eq_decide, decide_eq_decide]
  omega

/-- The bit that a right shift moves out. -/
theorem getLsbD_zero_eq_mod (v : Byte) : v.getLsbD 0 = decide (v.toNat % 2 = 1) := Nat.testBit_zero v.toNat

theorem aslFn_eq : aslFn = aslNum := by
  funext v f
  exact shifted_of_eq f (shiftLeft_one_eq v) (msb_eq_div v)

theorem lsrFn_eq : lsrFn = lsrNum := by
  funext v f
  exact shifted_of_eq f (shiftRight_one_eq v) (getLsbD_zero_eq_mod v)

theorem rolFn_eq : rolFn = rolNum := by
  funext v f
  refine shifted_of_eq f ?_ (msb_eq_div v)
  rw [shiftLeft_one_eq, BitVec.ofNat_add]

theorem rorFn_eq : rorFn = rorNum := by
  funext v f
  refine shifted_of_eq f ?_ (getLsbD_zero_eq_mod v)
  rw [shiftRight_one_eq, BitVec.ofNat_add]

/-! ### The rotates -/

theorem bool_eq_of_toNat_eq {x y : Bool} (h : x.toNat = y.toNat) : x = y := by
  rw [← Bool.ofNat_toNat x, h, Bool.ofNat_toNat]

/-- 47_alu_extension.md R205: ROL doubles the byte, Carry entering below and the ninth bit going to Carry. -/
theorem rolFn_nine_bits (v : Byte) (f : Flags) :
    256 * (rolFn v f).2.c.toNat + (rolFn v f).1.toNat = 2 * v.toNat + f.c.toNat := by
  have hc := Bool.toNat_le f.c
  rw [rolFn_eq]
  simp only [rolNum, shifted, BitVec.toNat_ofNat, toNat_decide]
  split <;> omega

/-- 47_alu_extension.md R205: ROR is the same rotation read backwards. -/
theorem rorFn_nine_bits (v : Byte) (f : Flags) :
    2 * (rorFn v f).1.toNat + (rorFn v f).2.c.toNat = 256 * f.c.toNat + v.toNat := by
  have hc := Bool.toNat_le f.c
  rw [rorFn_eq]
  simp only [rorNum, shifted, BitVec.toNat_ofNat, toNat_decide]
  split <;> omega

/-- Settles O40: each rotate is a rotation of the 9-bit number of Carry and byte by one place, ROL up and ROR down, so
after both the number is the old one. -/
theorem rotatesUndoEachOther : Obligations.RotatesUndoEachOther := by
  intro v f
  have hrol := rolFn_nine_bits v f
  have hror := rorFn_nine_bits v f
  have hrorRol := rorFn_nine_bits (rolFn v f).1 (rolFn v f).2
  have hrolRor := rolFn_nine_bits (rorFn v f).1 (rorFn v f).2
  have hc := Bool.toNat_le f.c
  have hcRor := Bool.toNat_le (rorFn (rolFn v f).1 (rolFn v f).2).2.c
  refine ⟨BitVec.eq_of_toNat_eq ?_, bool_eq_of_toNat_eq ?_, BitVec.eq_of_toNat_eq ?_, bool_eq_of_toNat_eq ?_⟩
  all_goals omega

/-! ### ADC, SBC, AND, ORA and EOR in every mode -/

/-- What a read through each of the seven modes gives, in the order of `modeRows`. -/
def modeReads (s : State) (b : Byte) (w : Word) : List (Byte × State) :=
  [readOperand (addrZP b s), readOperand (addrZPX b s), readOperand (addrAB w s), readOperand (addrABX w s),
   readOperand (addrABY w s), readOperand (addrIZX b s), readOperand (addrIZY b s)]

/-- What a read gives that a mode's row describes. -/
def ModeRow.read (s : State) (row : ModeRow) : Byte × State :=
  (s.mem.read row.ea, { s with pc := s.pc + BitVec.ofNat 16 row.bytes, cyc := s.cyc + row.cyc })

theorem modeReads_eq (s : State) (b : Byte) (w : Word) : modeReads s b w = (modeRows s b w).map (ModeRow.read s) := by
  rw [modeReads, readZP, readZPX, readAB, readABX, readABY, readIZX, readIZY]
  rfl

/-- Two maps of two lists that agree do so on each pair of entries. -/
theorem eq_of_mem_zip_of_map_eq {α β γ : Type} {f : α → γ} {g : β → γ} {xs : List α} {ys : List β}
    (h : xs.map f = ys.map g) : ∀ r ∈ List.zip xs ys, f r.1 = g r.2 := by
  have hpairs : List.Forall₂ (fun x y => f x = g y) xs ys := by
    rw [← List.forall₂_map_right_iff, ← List.forall₂_map_left_iff, List.forall₂_eq_eq_eq]
    exact h
  exact fun r hr => (List.forall₂_iff_zip.1 hpairs).2 hr

/-- 47_alu_extension.md R206: the forms of an instruction that accumulates what the seven modes read have the effect that
the modes' rows say. -/
theorem exec_of_accumulate {fn : Byte → Byte → Flags → Byte × Flags} {forms : List Instr} {s : State} {b : Byte}
    {w : Word} (h : forms.map (exec · s) = (modeReads s b w).map (accumulate fn)) :
    ∀ r ∈ List.zip forms (modeRows s b w), exec r.1 s = .next { s with
      a := (fn s.a (s.mem.read r.2.ea) s.flags).1, flags := (fn s.a (s.mem.read r.2.ea) s.flags).2,
      pc := s.pc + BitVec.ofNat 16 r.2.bytes, cyc := s.cyc + r.2.cyc } := by
  rw [modeReads_eq, List.map_map] at h
  exact eq_of_mem_zip_of_map_eq h

/-- Settles O33: the immediate forms accumulate their operand, the other forms what their mode reads. -/
theorem adcSbcEffects : Obligations.AdcSbcEffects := by
  intro s b w
  refine ⟨accumulate_at adcFn b s _ _, accumulate_at sbcFn b s _ _, ?_⟩
  rw [List.forall_mem_cons, List.forall_mem_singleton]
  exact ⟨exec_of_accumulate rfl, exec_of_accumulate rfl⟩

/-- Settles O36, as O33: the flags that the bitwise functions set are those of `ZN` in numbers. -/
theorem logicEffects : Obligations.LogicEffects := by
  intro s b w
  simp only [List.forall_mem_cons, zn_eq]
  refine ⟨?immediate, ?modes⟩
  case immediate =>
    exact ⟨accumulate_at andFn b s _ _, accumulate_at oraFn b s _ _, accumulate_at eorFn b s _ _,
      List.forall_mem_nil _⟩
  case modes =>
    exact ⟨exec_of_accumulate (fn := andFn) rfl, exec_of_accumulate (fn := oraFn) rfl,
      exec_of_accumulate (fn := eorFn) rfl, List.forall_mem_nil _⟩

/-! ### The shifts in every form -/

/-- The four read-modify-write modes, in the order of `rmwRows`. -/
def rmwModes (s : State) (b : Byte) (w : Word) : List (Word × State) :=
  [addrZP b s, addrZPX b s, addrAB w s, addrABXrmw w s]

/-- The state after a shift of the byte at the address of a mode's row. -/
def ModeRow.modify (fn : Byte → Flags → Byte × Flags) (s : State) (row : ModeRow) : State :=
  { s with
    mem := s.mem.write row.ea (fn (s.mem.read row.ea) s.flags).1, flags := (fn (s.mem.read row.ea) s.flags).2,
    pc := s.pc + BitVec.ofNat 16 row.bytes, cyc := s.cyc + row.cyc }

/-- 47_alu_extension.md R206, R207: a shift after a mode that gives the address of its row takes 3 more cycles: the read,
the internal cycle and the write. -/
theorem modifyMem_of_mode {fn : Byte → Flags → Byte × Flags} {e : Word × State} {s : State} {row : ModeRow} {p : Word}
    {cyc : Nat} (he : e = (p, { s with pc := s.pc + BitVec.ofNat 16 row.bytes, cyc := cyc }))
    (hea : row.ea = p.toNat) (hcyc : s.cyc + row.cyc = cyc + 3) : modifyMem fn e = .next (row.modify fn s) := by
  rw [he, modifyMem_at, ModeRow.modify, hea, hcyc]

theorem rmwModes_eq (fn : Byte → Flags → Byte × Flags) (s : State) (b : Byte) (w : Word) :
    (rmwModes s b w).map (modifyMem fn) = (rmwRows s b w).map fun row => .next (row.modify fn s) := by
  simp only [rmwModes, rmwRows, List.map_cons, List.map_nil, List.cons.injEq]
  exact ⟨modifyMem_of_mode (addrZP_eq b s) (eaZp_eq b) rfl, modifyMem_of_mode (addrZPX_eq b s) (eaZpx_eq s b) rfl,
    modifyMem_of_mode (addrAB_eq w s) rfl rfl, modifyMem_of_mode (addrABXrmw_eq w s) (eaAbx_eq s w) rfl, trivial⟩

/-- 47_alu_extension.md R206: the forms of an instruction that shifts the byte at the address of the four modes have the
effect that the modes' rows say. -/
theorem exec_of_modifyMem {fn : Byte → Flags → Byte × Flags} {forms : List Instr} {s : State} {b : Byte} {w : Word}
    (h : forms.map (exec · s) = (rmwModes s b w).map (modifyMem fn)) :
    ∀ r ∈ List.zip forms (rmwRows s b w), exec r.1 s = .next (r.2.modify fn s) :=
  eq_of_mem_zip_of_map_eq (h.trans (rmwModes_eq fn s b w))

/-- Settles O37: a shift of A is the shift in numbers, with one internal cycle. -/
theorem accumulatorShiftEffects : Obligations.AccumulatorShiftEffects := by
  intro s
  simp only [List.forall_mem_cons, ← aslFn_eq, ← lsrFn_eq, ← rolFn_eq, ← rorFn_eq]
  exact ⟨modifyA_eq aslFn s, modifyA_eq lsrFn s, modifyA_eq rolFn s, modifyA_eq rorFn s, List.forall_mem_nil _⟩

/-- Settles O38: every form shifts, in numbers, the byte at the address that its mode's row gives. -/
theorem memoryShiftEffects : Obligations.MemoryShiftEffects := by
  intro s b w
  simp only [List.forall_mem_cons, ← aslFn_eq, ← lsrFn_eq, ← rolFn_eq, ← rorFn_eq]
  exact ⟨exec_of_modifyMem rfl, exec_of_modifyMem rfl, exec_of_modifyMem rfl, exec_of_modifyMem rfl,
    List.forall_mem_nil _⟩

/-- 47_alu_extension.md R201, R205: a shift sets Z and N from its result and writes C beside them, no other flag. -/
def WritesCZN (fn : Byte → Flags → Byte × Flags) : Prop :=
  ∀ v f, (fn v f).2 = { f.setZN (fn v f).1 with c := (fn v f).2.c }

/-- 47_alu_extension.md R201, R206: after a mode that moved PC and the cycle count only, a shift writes the byte at the
mode's address and the flags C, Z and N, which are Z and N of that byte. -/
theorem modifyMem_writes_one_byte {fn : Byte → Flags → Byte × Flags} (hfn : WritesCZN fn) {e : Word × State} {s : State}
    {p pc : Word} {cyc : Nat} (he : e = (p, { s with pc := pc, cyc := cyc })) :
    ∃ t, modifyMem fn e = .next t ∧
      t = { s with
        mem := t.mem, pc := t.pc, cyc := t.cyc,
        flags := { s.flags with c := t.flags.c, z := t.flags.z, n := t.flags.n } } ∧
      (∀ q : Word, q ≠ e.1 → t.mem.read q.toNat = s.mem.read q.toNat) ∧
      (s.mem.wf = true →
        t.flags.z = decide (t.mem.read e.1.toNat = 0) ∧ t.flags.n = (t.mem.read e.1.toNat).msb) := by
  subst he
  refine ⟨_, modifyMem_at fn p s pc cyc, ?_, fun q hq => memWrite1_read_ne hq _ s, fun hm => ?_⟩
  · rw [hfn]
    rfl
  · have hbyte := Memory.read_write_same hm p.toNat (fn (s.mem.read p.toNat) s.flags).1
    rw [hbyte, hfn]
    exact ⟨beq_eq_decide _ 0, rfl⟩

/-- Settles O39: every form is one of the four shifts after a mode that moved PC and the cycle count only. -/
theorem memoryShiftWritesExactlyOneByte : Obligations.MemoryShiftWritesExactlyOneByte := by
  intro s b w
  have zp {fn} (hfn : WritesCZN fn) := modifyMem_writes_one_byte hfn (addrZP_eq b s)
  have zpx {fn} (hfn : WritesCZN fn) := modifyMem_writes_one_byte hfn (addrZPX_eq b s)
  have ab {fn} (hfn : WritesCZN fn) := modifyMem_writes_one_byte hfn (addrAB_eq w s)
  have abx {fn} (hfn : WritesCZN fn) := modifyMem_writes_one_byte hfn (addrABXrmw_eq w s)
  have asl : WritesCZN aslFn := fun _ _ => rfl
  have lsr : WritesCZN lsrFn := fun _ _ => rfl
  have rol : WritesCZN rolFn := fun _ _ => rfl
  have ror : WritesCZN rorFn := fun _ _ => rfl
  simp only [List.forall_mem_cons]
  exact ⟨zp asl, zpx asl, ab asl, abx asl, zp lsr, zpx lsr, ab lsr, abx lsr, zp rol, zpx rol, ab rol, abx rol, zp ror,
    zpx ror, ab ror, abx ror, List.forall_mem_nil _⟩

end Sys2Proof.Machine
end

section
/-! PROOF. The exceptions (60_exceptions.md): the effect of the decode failure (O22), and that no command of the host
meets a fault or a refusal (O53). -/

namespace Sys2Proof.Machine

/-- Run answers a remaining budget and a state, whatever the budget: at once, or as its loop ends (R121, R122). -/
theorem run_completes (n : Int) (s : State) : ∃ r t, run n s = .next (r, t) := by
  rcases le_or_gt n 0 with hn | hn
  · exact ⟨n, s, run_of_nonpos hn s⟩
  · obtain ⟨r, t, hrun, -⟩ := run_remainder n s hn
    exact ⟨r, t, hrun⟩

/-- The command Run leaves the state that Run answers, and drops the remaining budget. -/
theorem command_run {n r : Int} {s t : State} (h : run n s = .next (r, t)) : command (.run n) s = .next t := by
  rw [command, h]

/-- Settles O53: a step always completes, so Run does; every other command is a total update of the state. -/
theorem everyHostCommandCompletes : Obligations.EveryHostCommandCompletes := by
  intro cmd s
  cases cmd with
  | step =>
    obtain ⟨t, hstep, -⟩ := step_completes s
    exact ⟨t, hstep⟩
  | run n =>
    obtain ⟨_, t, hrun⟩ := run_completes n s
    exact ⟨t, command_run hrun⟩
  | lightReset | fullReset | inject | presetA | presetX | presetY | presetSP | presetPC | presetFlags =>
    exact ⟨_, rfl⟩

/-- Settles O22: the lookup of a byte of no row answers none, so the step takes the decode failure. -/
theorem unlistedByteIsDecodeFailure : Obligations.UnlistedByteIsDecodeFailure := by
  intro s hunlisted
  have hop : s.nextOpcode = none := Config.lookup_eq_none.2 hunlisted
  exact ⟨_, step_of_unlisted hop, rfl, rfl⟩

end Sys2Proof.Machine
end

section
/-! PROOF. The first step after a full reset (70_reset_and_hazards.md R323): the cleared memory gives the byte 0x00 at
0xFFFC, which is the default byte of no row (O3). -/

namespace Sys2Proof.Machine

theorem defaultByte_ne_zero (n : Opcode) : n.defaultByte ≠ 0x00 := by
  cases n <;> decide

theorem opcodeByte_of_opc_nil {c : Config} (h : c.opc = []) (n : Opcode) : c.opcodeByte n = n.defaultByte := by
  rw [Config.opcodeByte, h, List.lookup_nil, Option.getD_none]

/-- With the default opcode bytes, 0x00 is unlisted whether the extension is enabled or not (D4, log 3). -/
theorem lookup_zero_of_opc_nil {c : Config} (h : c.opc = []) : c.lookup 0x00 = none :=
  Config.lookup_eq_none.2 fun n _ => opcodeByte_of_opc_nil h n ▸ defaultByte_ne_zero n

theorem fullReset_read (s : State) (addr : Nat) : (fullReset s).mem.read addr = 0x00 := by
  rw [fullReset_mem, Memory.read_nil]

/-- After a full reset the opcode byte is 0x00, so with the default opcode bytes no instruction is next. -/
theorem fullReset_nextOpcode {s : State} (h : s.config.opc = []) : (fullReset s).nextOpcode = none := by
  rw [State.nextOpcode, fullReset_read, fullReset_config, lookup_zero_of_opc_nil h]

/-- Settles O3: no instruction is next, so the step takes the decode failure of the byte at the reset PC. -/
theorem firstStepAfterFullResetIsDecodeFailure : Obligations.FirstStepAfterFullResetIsDecodeFailure := by
  intro s h
  rw [step_of_unlisted (fullReset_nextOpcode h), fullReset_read]
  rfl

end Sys2Proof.Machine
end
